-- ==== Sys2Proof/Word.lean ====
section
/-!
DEFINITION. The word types of the machine: the 48 data bits, the tagged word of memory, program addresses,
address variants, half-instructions (10_state.md R10, R13; 20_memory.md R51, R56; 30_encoding.md R100).
-/
namespace Sys2Proof

/-- The 48 data bits of a word: what every register of the arithmetic unit holds (R10). -/
abbrev Word := BitVec 48

/-- A program address: 15 bits, so that all address arithmetic is `ADDR`, modulo 2^15 (R13, R51). -/
abbrev Addr := BitVec 15

/-- A 16-bit address variant: bit 15 set means unmapped (R56, R76). -/
abbrev Variant := BitVec 16

/-- A 24-bit half-instruction (R100). -/
abbrev Half := BitVec 24

/-- A word of memory, of the write-back cache or of the prefetch cache: 2 tag bits and 48 data bits (R10).
Tag 1 is an instruction, 2 a number, 0 and 3 are unclassified. -/
structure TWord where
  tag  : BitVec 2
  data : Word
deriving DecidableEq, Repr

namespace TWord

/-- The tag of an instruction word (R10). -/
def instructionTag : BitVec 2 := 1

/-- The tag of a number (R10). -/
def numberTag : BitVec 2 := 2

end TWord

end Sys2Proof
end

