-- ==== Sys2Proof/Syntax.lean ====
section
/-!
DEFINITION. The instructions: one constructor for each of the 80 rows of the opcode map (30_encoding.md R106), with
the two fields every format has: the register field `reg` (R101) and the 15-bit address field `addr` (R104).
-/
namespace Sys2Proof

/-- A half-instruction. `addr` is the assembled address field of R104: in the short format it is
`a12 | (ext ? 0o70000 : 0)`, so only some values of it can be encoded (WellFormed.lean). -/
inductive Instr where
  /-- `atx`, short opcode 0o000: store ACC (R170). -/
  | atx (reg : BitVec 4) (addr : Addr)
  /-- `stx`, short opcode 0o001: store ACC, pop the stack into ACC (R171). -/
  | stx (reg : BitVec 4) (addr : Addr)
  /-- `mod`, short opcode 0o002: special register access (R270). -/
  | mod (reg : BitVec 4) (addr : Addr)
  /-- `xts`, short opcode 0o003: push ACC, load ACC (R173). -/
  | xts (reg : BitVec 4) (addr : Addr)
  /-- `a+x`, short opcode 0o004: floating add (R174). -/
  | aPlusX (reg : BitVec 4) (addr : Addr)
  /-- `a-x`, short opcode 0o005: floating subtract (R175). -/
  | aMinusX (reg : BitVec 4) (addr : Addr)
  /-- `x-a`, short opcode 0o006: floating reverse subtract (R176). -/
  | xMinusA (reg : BitVec 4) (addr : Addr)
  /-- `amx`, short opcode 0o007: subtract magnitudes (R177). -/
  | amx (reg : BitVec 4) (addr : Addr)
  /-- `xta`, short opcode 0o010: load ACC (R178). -/
  | xta (reg : BitVec 4) (addr : Addr)
  /-- `aax`, short opcode 0o011: AND (R179). -/
  | aax (reg : BitVec 4) (addr : Addr)
  /-- `aex`, short opcode 0o012: exclusive OR (R180). -/
  | aex (reg : BitVec 4) (addr : Addr)
  /-- `arx`, short opcode 0o013: cyclic add (R181). -/
  | arx (reg : BitVec 4) (addr : Addr)
  /-- `avx`, short opcode 0o014: change sign by operand sign (R182). -/
  | avx (reg : BitVec 4) (addr : Addr)
  /-- `aox`, short opcode 0o015: OR (R183). -/
  | aox (reg : BitVec 4) (addr : Addr)
  /-- `a/x`, short opcode 0o016: floating divide (R184). -/
  | aDivX (reg : BitVec 4) (addr : Addr)
  /-- `a*x`, short opcode 0o017: floating multiply (R185). -/
  | aMulX (reg : BitVec 4) (addr : Addr)
  /-- `apx`, short opcode 0o020: pack by mask (R200). -/
  | apx (reg : BitVec 4) (addr : Addr)
  /-- `aux`, short opcode 0o021: unpack by mask (R201). -/
  | aux (reg : BitVec 4) (addr : Addr)
  /-- `acx`, short opcode 0o022: count ones, cyclic add (R202). -/
  | acx (reg : BitVec 4) (addr : Addr)
  /-- `anx`, short opcode 0o023: number of the highest one, cyclic add (R203). -/
  | anx (reg : BitVec 4) (addr : Addr)
  /-- `e+x`, short opcode 0o024: add the operand exponent (R204). -/
  | ePlusX (reg : BitVec 4) (addr : Addr)
  /-- `e-x`, short opcode 0o025: subtract the operand exponent (R205). -/
  | eMinusX (reg : BitVec 4) (addr : Addr)
  /-- `asx`, short opcode 0o026: shift by the operand exponent (R206). -/
  | asx (reg : BitVec 4) (addr : Addr)
  /-- `xtr`, short opcode 0o027: load RAU from the operand exponent (R214). -/
  | xtr (reg : BitVec 4) (addr : Addr)
  /-- `rte`, short opcode 0o030: read RAU into the exponent field (R215). -/
  | rte (reg : BitVec 4) (addr : Addr)
  /-- `yta`, short opcode 0o031: read RMR (R216). -/
  | yta (reg : BitVec 4) (addr : Addr)
  /-- `*32`, short opcode 0o032: always illegal (R275). -/
  | op32 (reg : BitVec 4) (addr : Addr)
  /-- `ext`, short opcode 0o033: I/O port access (R276). -/
  | ext (reg : BitVec 4) (addr : Addr)
  /-- `e+n`, short opcode 0o034: add a constant to the exponent (R218). -/
  | ePlusN (reg : BitVec 4) (addr : Addr)
  /-- `e-n`, short opcode 0o035: subtract a constant from the exponent (R219). -/
  | eMinusN (reg : BitVec 4) (addr : Addr)
  /-- `asn`, short opcode 0o036: shift by a constant (R220). -/
  | asn (reg : BitVec 4) (addr : Addr)
  /-- `ntr`, short opcode 0o037: load RAU from the address (R222). -/
  | ntr (reg : BitVec 4) (addr : Addr)
  /-- `ati`, short opcode 0o040: ACC to index register (R230). -/
  | ati (reg : BitVec 4) (addr : Addr)
  /-- `sti`, short opcode 0o041: ACC to index register, pop (R231). -/
  | sti (reg : BitVec 4) (addr : Addr)
  /-- `ita`, short opcode 0o042: index register to ACC (R232). -/
  | ita (reg : BitVec 4) (addr : Addr)
  /-- `its`, short opcode 0o043: push ACC, index register to ACC (R233). -/
  | its (reg : BitVec 4) (addr : Addr)
  /-- `mtj`, short opcode 0o044: copy index register (R234). -/
  | mtj (reg : BitVec 4) (addr : Addr)
  /-- `j+m`, short opcode 0o045: add index registers (R235). -/
  | jPlusM (reg : BitVec 4) (addr : Addr)
  /-- `*46`, short opcode 0o046: index register from own address (R236). -/
  | op46 (reg : BitVec 4) (addr : Addr)
  /-- `*47`, short opcode 0o047: index register plus own address (R237). -/
  | op47 (reg : BitVec 4) (addr : Addr)
  /-- `*50`, short opcode 0o050: extracode (R262). -/
  | ex50 (reg : BitVec 4) (addr : Addr)
  /-- `*51`, short opcode 0o051: extracode (R262). -/
  | ex51 (reg : BitVec 4) (addr : Addr)
  /-- `*52`, short opcode 0o052: extracode (R262). -/
  | ex52 (reg : BitVec 4) (addr : Addr)
  /-- `*53`, short opcode 0o053: extracode (R262). -/
  | ex53 (reg : BitVec 4) (addr : Addr)
  /-- `*54`, short opcode 0o054: extracode (R262). -/
  | ex54 (reg : BitVec 4) (addr : Addr)
  /-- `*55`, short opcode 0o055: extracode (R262). -/
  | ex55 (reg : BitVec 4) (addr : Addr)
  /-- `*56`, short opcode 0o056: extracode (R262). -/
  | ex56 (reg : BitVec 4) (addr : Addr)
  /-- `*57`, short opcode 0o057: extracode (R262). -/
  | ex57 (reg : BitVec 4) (addr : Addr)
  /-- `*60`, short opcode 0o060: extracode (R262). -/
  | ex60 (reg : BitVec 4) (addr : Addr)
  /-- `*61`, short opcode 0o061: extracode (R262). -/
  | ex61 (reg : BitVec 4) (addr : Addr)
  /-- `*62`, short opcode 0o062: extracode (R262). -/
  | ex62 (reg : BitVec 4) (addr : Addr)
  /-- `*63`, short opcode 0o063: extracode (R262). -/
  | ex63 (reg : BitVec 4) (addr : Addr)
  /-- `*64`, short opcode 0o064: extracode (R262). -/
  | ex64 (reg : BitVec 4) (addr : Addr)
  /-- `*65`, short opcode 0o065: extracode (R262). -/
  | ex65 (reg : BitVec 4) (addr : Addr)
  /-- `*66`, short opcode 0o066: extracode (R262). -/
  | ex66 (reg : BitVec 4) (addr : Addr)
  /-- `*67`, short opcode 0o067: extracode (R262). -/
  | ex67 (reg : BitVec 4) (addr : Addr)
  /-- `*70`, short opcode 0o070: extracode (R262). -/
  | ex70 (reg : BitVec 4) (addr : Addr)
  /-- `*71`, short opcode 0o071: extracode (R262). -/
  | ex71 (reg : BitVec 4) (addr : Addr)
  /-- `*72`, short opcode 0o072: extracode (R262). -/
  | ex72 (reg : BitVec 4) (addr : Addr)
  /-- `*73`, short opcode 0o073: extracode (R262). -/
  | ex73 (reg : BitVec 4) (addr : Addr)
  /-- `*74`, short opcode 0o074: extracode (R262). -/
  | ex74 (reg : BitVec 4) (addr : Addr)
  /-- `*75`, short opcode 0o075: extracode (R262). -/
  | ex75 (reg : BitVec 4) (addr : Addr)
  /-- `*76`, short opcode 0o076: extracode (R262). -/
  | ex76 (reg : BitVec 4) (addr : Addr)
  /-- `*77`, short opcode 0o077: extracode (R262). -/
  | ex77 (reg : BitVec 4) (addr : Addr)
  /-- `*20`, long opcode 0o200: extracode (R262). -/
  | ex20 (reg : BitVec 4) (addr : Addr)
  /-- `*21`, long opcode 0o210: extracode (R262). -/
  | ex21 (reg : BitVec 4) (addr : Addr)
  /-- `utc`, long opcode 0o220: modifier from address (R240). -/
  | utc (reg : BitVec 4) (addr : Addr)
  /-- `wtc`, long opcode 0o230: modifier from memory (R241). -/
  | wtc (reg : BitVec 4) (addr : Addr)
  /-- `vtm`, long opcode 0o240: index register from address (R242). -/
  | vtm (reg : BitVec 4) (addr : Addr)
  /-- `utm`, long opcode 0o250: add address to index register (R243). -/
  | utm (reg : BitVec 4) (addr : Addr)
  /-- `uza`, long opcode 0o260: branch if the condition is false (R250). -/
  | uza (reg : BitVec 4) (addr : Addr)
  /-- `u1a`, long opcode 0o270: branch if the condition is true (R251). -/
  | u1a (reg : BitVec 4) (addr : Addr)
  /-- `uj`, long opcode 0o300: jump (R252). -/
  | uj (reg : BitVec 4) (addr : Addr)
  /-- `vjm`, long opcode 0o310: jump and link (R253). -/
  | vjm (reg : BitVec 4) (addr : Addr)
  /-- `ij`, long opcode 0o320: return from trap or extracode (R278). -/
  | ij (reg : BitVec 4) (addr : Addr)
  /-- `stop`, long opcode 0o330: halt, or extracode 63 in user mode (R279). -/
  | stop (reg : BitVec 4) (addr : Addr)
  /-- `vzm`, long opcode 0o340: branch if index register zero (R254). -/
  | vzm (reg : BitVec 4) (addr : Addr)
  /-- `v1m`, long opcode 0o350: branch if index register not zero (R255). -/
  | v1m (reg : BitVec 4) (addr : Addr)
  /-- `*36`, long opcode 0o360: same as vzm (R256). -/
  | op36 (reg : BitVec 4) (addr : Addr)
  /-- `vlm`, long opcode 0o370: loop on index register (R257). -/
  | vlm (reg : BitVec 4) (addr : Addr)
deriving DecidableEq, Repr

/-- The opcode number of R102, R103 (short `0o00 .. 0o77`, long `0o200 .. 0o370` in steps of 8), the register field and
the address field of an instruction. -/
def Instr.fields : Instr → Nat × BitVec 4 × Addr
  | .atx r a => (0o000, r, a)
  | .stx r a => (0o001, r, a)
  | .mod r a => (0o002, r, a)
  | .xts r a => (0o003, r, a)
  | .aPlusX r a => (0o004, r, a)
  | .aMinusX r a => (0o005, r, a)
  | .xMinusA r a => (0o006, r, a)
  | .amx r a => (0o007, r, a)
  | .xta r a => (0o010, r, a)
  | .aax r a => (0o011, r, a)
  | .aex r a => (0o012, r, a)
  | .arx r a => (0o013, r, a)
  | .avx r a => (0o014, r, a)
  | .aox r a => (0o015, r, a)
  | .aDivX r a => (0o016, r, a)
  | .aMulX r a => (0o017, r, a)
  | .apx r a => (0o020, r, a)
  | .aux r a => (0o021, r, a)
  | .acx r a => (0o022, r, a)
  | .anx r a => (0o023, r, a)
  | .ePlusX r a => (0o024, r, a)
  | .eMinusX r a => (0o025, r, a)
  | .asx r a => (0o026, r, a)
  | .xtr r a => (0o027, r, a)
  | .rte r a => (0o030, r, a)
  | .yta r a => (0o031, r, a)
  | .op32 r a => (0o032, r, a)
  | .ext r a => (0o033, r, a)
  | .ePlusN r a => (0o034, r, a)
  | .eMinusN r a => (0o035, r, a)
  | .asn r a => (0o036, r, a)
  | .ntr r a => (0o037, r, a)
  | .ati r a => (0o040, r, a)
  | .sti r a => (0o041, r, a)
  | .ita r a => (0o042, r, a)
  | .its r a => (0o043, r, a)
  | .mtj r a => (0o044, r, a)
  | .jPlusM r a => (0o045, r, a)
  | .op46 r a => (0o046, r, a)
  | .op47 r a => (0o047, r, a)
  | .ex50 r a => (0o050, r, a)
  | .ex51 r a => (0o051, r, a)
  | .ex52 r a => (0o052, r, a)
  | .ex53 r a => (0o053, r, a)
  | .ex54 r a => (0o054, r, a)
  | .ex55 r a => (0o055, r, a)
  | .ex56 r a => (0o056, r, a)
  | .ex57 r a => (0o057, r, a)
  | .ex60 r a => (0o060, r, a)
  | .ex61 r a => (0o061, r, a)
  | .ex62 r a => (0o062, r, a)
  | .ex63 r a => (0o063, r, a)
  | .ex64 r a => (0o064, r, a)
  | .ex65 r a => (0o065, r, a)
  | .ex66 r a => (0o066, r, a)
  | .ex67 r a => (0o067, r, a)
  | .ex70 r a => (0o070, r, a)
  | .ex71 r a => (0o071, r, a)
  | .ex72 r a => (0o072, r, a)
  | .ex73 r a => (0o073, r, a)
  | .ex74 r a => (0o074, r, a)
  | .ex75 r a => (0o075, r, a)
  | .ex76 r a => (0o076, r, a)
  | .ex77 r a => (0o077, r, a)
  | .ex20 r a => (0o200, r, a)
  | .ex21 r a => (0o210, r, a)
  | .utc r a => (0o220, r, a)
  | .wtc r a => (0o230, r, a)
  | .vtm r a => (0o240, r, a)
  | .utm r a => (0o250, r, a)
  | .uza r a => (0o260, r, a)
  | .u1a r a => (0o270, r, a)
  | .uj r a => (0o300, r, a)
  | .vjm r a => (0o310, r, a)
  | .ij r a => (0o320, r, a)
  | .stop r a => (0o330, r, a)
  | .vzm r a => (0o340, r, a)
  | .v1m r a => (0o350, r, a)
  | .op36 r a => (0o360, r, a)
  | .vlm r a => (0o370, r, a)

/-- The opcode number (R102, R103, R106). -/
def Instr.opcode (i : Instr) : Nat := i.fields.1

/-- The register field (R101). -/
def Instr.reg (i : Instr) : BitVec 4 := i.fields.2.1

/-- The address field (R104). -/
def Instr.addr (i : Instr) : Addr := i.fields.2.2

/-- Whether the instruction has the long-address format: its opcode number is `0o200` or more (R103). -/
def Instr.isLong (i : Instr) : Bool := 0o200 ≤ i.opcode

end Sys2Proof
end

