-- ==== Sys2Proof/WellFormed.lean ====
section
/-!
DEFINITION. Which terms of `Instr` an encoding exists for (30_encoding.md R104, R110). Every register field has 4 bits
and every long address 15, so one check remains: a short-format address lies in one of the two ranges the 12-bit
field and the extension bit reach.
-/
namespace Sys2Proof

/-- The addresses a short instruction reaches: `0 .. 0o7777` and `0o70000 .. 0o77777` (R104, R110). -/
def shortReachable (addr : Addr) : Bool := addr.toNat ≤ 0o7777 || 0o70000 ≤ addr.toNat

/-- An instruction some half-instruction encodes (R110). -/
def Instr.wellFormed (i : Instr) : Bool := i.isLong || shortReachable i.addr

end Sys2Proof
end

