-- ==== Sys2Proof/Decode.lean ====
section
/-!
DEFINITION. The decoder and the encoder, written from the two formats of 30_encoding.md (R100 to R104, R107, R110).
Decoding is total: every 24-bit pattern selects exactly one row of the map (R107), so the decoder rejects none;
what it refuses is a table word of more bits than a half-instruction has (`decodeTableWord`).
-/
namespace Sys2Proof

/-- The address of the short format: the 12-bit field with bits 14:12 all copied from `ext` (R104). -/
def shortAddress (ext : Bool) (a12 : BitVec 12) : Addr :=
  if ext then a12.setWidth 15 ||| 0o70000 else a12.setWidth 15

/-- The row a short opcode selects (R102, R106). -/
def decodeShort (op : BitVec 6) (reg : BitVec 4) (addr : Addr) : Instr :=
  match op.toNat with
  | 0o00 => .atx reg addr
  | 0o01 => .stx reg addr
  | 0o02 => .mod reg addr
  | 0o03 => .xts reg addr
  | 0o04 => .aPlusX reg addr
  | 0o05 => .aMinusX reg addr
  | 0o06 => .xMinusA reg addr
  | 0o07 => .amx reg addr
  | 0o10 => .xta reg addr
  | 0o11 => .aax reg addr
  | 0o12 => .aex reg addr
  | 0o13 => .arx reg addr
  | 0o14 => .avx reg addr
  | 0o15 => .aox reg addr
  | 0o16 => .aDivX reg addr
  | 0o17 => .aMulX reg addr
  | 0o20 => .apx reg addr
  | 0o21 => .aux reg addr
  | 0o22 => .acx reg addr
  | 0o23 => .anx reg addr
  | 0o24 => .ePlusX reg addr
  | 0o25 => .eMinusX reg addr
  | 0o26 => .asx reg addr
  | 0o27 => .xtr reg addr
  | 0o30 => .rte reg addr
  | 0o31 => .yta reg addr
  | 0o32 => .op32 reg addr
  | 0o33 => .ext reg addr
  | 0o34 => .ePlusN reg addr
  | 0o35 => .eMinusN reg addr
  | 0o36 => .asn reg addr
  | 0o37 => .ntr reg addr
  | 0o40 => .ati reg addr
  | 0o41 => .sti reg addr
  | 0o42 => .ita reg addr
  | 0o43 => .its reg addr
  | 0o44 => .mtj reg addr
  | 0o45 => .jPlusM reg addr
  | 0o46 => .op46 reg addr
  | 0o47 => .op47 reg addr
  | 0o50 => .ex50 reg addr
  | 0o51 => .ex51 reg addr
  | 0o52 => .ex52 reg addr
  | 0o53 => .ex53 reg addr
  | 0o54 => .ex54 reg addr
  | 0o55 => .ex55 reg addr
  | 0o56 => .ex56 reg addr
  | 0o57 => .ex57 reg addr
  | 0o60 => .ex60 reg addr
  | 0o61 => .ex61 reg addr
  | 0o62 => .ex62 reg addr
  | 0o63 => .ex63 reg addr
  | 0o64 => .ex64 reg addr
  | 0o65 => .ex65 reg addr
  | 0o66 => .ex66 reg addr
  | 0o67 => .ex67 reg addr
  | 0o70 => .ex70 reg addr
  | 0o71 => .ex71 reg addr
  | 0o72 => .ex72 reg addr
  | 0o73 => .ex73 reg addr
  | 0o74 => .ex74 reg addr
  | 0o75 => .ex75 reg addr
  | 0o76 => .ex76 reg addr
  -- 0o77, the last of the 64 values of a 6-bit field
  | _ => .ex77 reg addr

/-- The row a long opcode `0o200 + 8 * op4` selects (R103, R106). -/
def decodeLong (op4 : BitVec 4) (reg : BitVec 4) (addr : Addr) : Instr :=
  match op4.toNat with
  | 0o00 => .ex20 reg addr
  | 0o01 => .ex21 reg addr
  | 0o02 => .utc reg addr
  | 0o03 => .wtc reg addr
  | 0o04 => .vtm reg addr
  | 0o05 => .utm reg addr
  | 0o06 => .uza reg addr
  | 0o07 => .u1a reg addr
  | 0o10 => .uj reg addr
  | 0o11 => .vjm reg addr
  | 0o12 => .ij reg addr
  | 0o13 => .stop reg addr
  | 0o14 => .vzm reg addr
  | 0o15 => .v1m reg addr
  | 0o16 => .op36 reg addr
  -- 0o17, the last of the 16 values of a 4-bit field
  | _ => .vlm reg addr

/-- Decode a half-instruction (R101 to R104, R107): bit 19 selects the format, then `op6` or `op4` the row. -/
def decode (h : Half) : Instr :=
  if h.getLsbD 19 then decodeLong (h.extractLsb' 15 4) (h.extractLsb' 20 4) (h.extractLsb' 0 15)
  else decodeShort (h.extractLsb' 12 6) (h.extractLsb' 20 4) (shortAddress (h.getLsbD 18) (h.extractLsb' 0 12))

/-- `short(reg, op, addr)` of R110: the fields of R102 from the most significant down. -/
def encodeShort (reg : BitVec 4) (op6 : BitVec 6) (addr : Addr) : Half :=
  reg ++ 0#1 ++ BitVec.ofBool (decide (0o70000 ≤ addr.toNat)) ++ op6 ++ addr.extractLsb' 0 12

/-- `long(reg, op8, addr)` of R110: the fields of R103 from the most significant down. -/
def encodeLong (reg : BitVec 4) (op4 : BitVec 4) (addr : Addr) : Half :=
  reg ++ 1#1 ++ op4 ++ addr

/-- Encode an instruction (R110). Of a well-formed instruction this is the one half-instruction R107 decodes to it,
up to the free bit 18 of the short format, which carries the address extension. -/
def encode (i : Instr) : Half :=
  if i.isLong then encodeLong i.reg (BitVec.ofNat 4 ((i.opcode - 0o200) / 8)) i.addr
  else encodeShort i.reg (BitVec.ofNat 6 i.opcode) i.addr

/-- The word `word(l, r)` of R110: the left half-instruction in bits 47:24, the right one in bits 23:0 (R100). -/
def joinHalves (left right : Half) : Word := left ++ right

/-- The left half-instruction of a word (R100). -/
def leftHalf (w : Word) : Half := w.extractLsb' 24 24

/-- The right half-instruction of a word (R100). -/
def rightHalf (w : Word) : Half := w.extractLsb' 0 24

/-- The half-instruction whose bits, numbered as spec/opcode_table.json numbers them (bit 0 the least significant), are
the low `nbits` bits of `w`; its bits above `nbits` are 0. -/
def tableHalf (nbits w : Nat) : Half := BitVec.ofNat 24 (w % 2 ^ nbits)

/-- The instruction the decoder reads from a row's word. A half-instruction is 24 bits (R100): a wider word is no
half-instruction and is refused. -/
def decodeTableWord (nbits w : Nat) : Option Instr :=
  if 24 < nbits then none else some (decode (tableHalf nbits w))

end Sys2Proof
end

