-- ==== Sys2Proof/Config.lean ====
section
/-!
DEFINITION. What an implementation fixes: the parameters of 00_scope.md R6, held as plain data (State carries one
value of this type, which no step changes, so every statement about every state holds for every value of them),
and the free values, opaque constants of which nothing can be proved.
-/
namespace Sys2Proof.Config

/-- Which slot a console-address store sweeps (R6, R67). -/
inductive SweepPolicy where
  | byAge
  | byIndex
deriving DecidableEq, Repr

/-- The OPEN parameters of R6. The host may choose any value that `Params.wf` admits. -/
structure Params where
  /-- `MEM_WORDS`: words of physical memory (R6, R50). -/
  memWords    : Nat
  /-- `CACHE_ENABLE`: false selects the bypass mode (R6, R63). -/
  cacheEnable : Bool
  /-- `GRP_WIRED_MASK`: bits of GRP a register write cannot clear (R6, R26). -/
  grpWired    : BitVec 48
  /-- `PRP_WIRED_MASK`: bits of PRP a register write cannot clear (R6, R26). -/
  prpWired    : BitVec 24
  /-- `RESET_PC`: the program counter after reset (R6, R350). -/
  resetPc     : Addr
  /-- `SWEEP_POLICY` (R6, R67). -/
  sweep       : SweepPolicy
deriving DecidableEq, Repr

/-- The bits of GRP that the core itself sets (R25, R301, R311): `BLOCK`, `RAM_CHECK`, `PAGE`, 11 to 16, 19 to 22
and the peripheral summary 36. The wired mask excludes them (R302). -/
def coreCauses : BitVec 48 := 0o1000036374777

/-- What R6, R50 and R302 require of the parameters. -/
abbrev Params.wf (c : Params) : Prop :=
  c.memWords % 1024 = 0 ∧ 32768 ≤ c.memWords ∧ c.memWords ≤ 4194304 ∧ c.grpWired &&& coreCauses = 0

/-- The parameters `State.reset` is given: the default or suggested values of R6 (`CACHE_ENABLE` true, by age,
2^19 words), no wired bit, and the start address 0o1000 of the spec's own vectors. DESIGN CHOICE, unsafe
(notes/assumptions/3.md): R6 leaves them OPEN. -/
def Params.suggested : Params :=
  { memWords := 524288, cacheEnable := true, grpWired := 0, prpWired := 0, resetPc := 0o1000, sweep := .byAge }

/-- The slot a store of bypass mode goes through: "a draw in 0..7 under no law" (R63, R6 `bypassSlot`).
FREE VALUE, applied to the model's draw counter (notes/assumptions/6.md). -/
opaque bypassSlot : Nat → Fin 8

/-- What reading the absent registers `M[0o36]`, `M[0o37]` gives: "any value of 15 bits"
(93_implementation_defined.md U3, R238). FREE VALUE, applied to the draw counter (notes/assumptions/7.md). -/
opaque absentRegister : Nat → Addr

end Sys2Proof.Config
end

