-- ==== Sys2Proof/Machine/State.lean ====
section
/-!
DEFINITION. The state of the machine as plain data (10_state.md R10 to R34), the reasons a step can end, the state
right after reset (70_reset_and_hazards.md R350 to R352).
-/
namespace Sys2Proof.Machine

/-- A cell of physical memory: a word address and the tagged word there. The word is the smallest unit the machine
addresses; it has no bytes (R52). -/
abbrev Cell := Nat × TWord

/-- The fault kinds of R311, with the payload a trap records. The two host kinds never trap (R318). -/
inductive Cause where
  | illegalInsn
  | insnCheck
  | insnProt
  | insnBreakpoint
  /-- `page`: the virtual page number, recorded in `GRP[8:4]`. -/
  | operandProt (page : BitVec 5)
  | loadWatch
  | storeWatch
  /-- `block`: the low three bits of the physical address, recorded in `GRP[2:0]`. -/
  | ramCheck (block : BitVec 3)
  /-- `slot`: the cache slot number, recorded in `GRP[2:0]`. -/
  | cacheCheck (slot : BitVec 3)
  | overflow
  | divZero
  | hostWatchR
  | hostWatchW
deriving DecidableEq, Repr

/-- The stop codes of R330. The code `None` is the absence of one (`State.stopped = none`). -/
inductive StopCode where
  | halt
  | breakpoint
  | hostWatchR
  | hostWatchW
  | runawayPC
  | unimplemented
  | doubleTrap
  | illegalInsn
  | insnCheck
  | insnProt
  | insnBreakpoint
  | loadWatch
  | storeWatch
  | ramCheck
  | cacheCheck
  | overflow
  | divZero
deriving DecidableEq, Repr

/-- The write-back cache (R27) with its tournament table and sweep counter (R28). -/
structure Cache where
  /-- `BRZ[0..7]`: the tagged word of each slot. -/
  brz   : Vector TWord 8
  /-- `BAZ[0..7]`: the address variant of each slot; a slot is empty iff it is 0. -/
  baz   : Vector Variant 8
  /-- `TABST`: one bit for each pair of slots (R58). -/
  tabst : BitVec 28
  /-- `FLUSH`: the sweep counter (R67). -/
  flush : BitVec 4
deriving DecidableEq, Repr

/-- The instruction prefetch cache (R29). -/
structure Prefetch where
  /-- `BRS[0..3]`. -/
  brs : Vector TWord 4
  /-- `BAS[0..3]`. -/
  bas : Vector Variant 4
  /-- `BRSLRU`: one bit for each pair of slots (R74). -/
  lru : BitVec 6
deriving DecidableEq, Repr

/-- The page table (R30) and the protection bitmap (R31). -/
structure Pages where
  /-- `RP[0..7]`: four 12-bit page-frame numbers each. -/
  rp  : Vector Word 8
  /-- `TLB[0..31]`: the expanded table, the one consulted. -/
  tlb : Vector (BitVec 12) 32
  /-- `RZ`: bit p = 1 closes virtual page p to data access. -/
  rz  : BitVec 32
deriving DecidableEq, Repr

/-- The inputs the host sets, only between cycles (R5, R6, R276). No step changes them. -/
structure HostInputs where
  /-- `console[0..7]`: the switch registers at physical addresses 0..7 (R54). -/
  console : Vector Word 8
  /-- `hostBreakE`: program addresses (R150 step 1). -/
  breakE  : List Addr
  /-- `hostWatchR`: address variants (R60). -/
  watchR  : List Variant
  /-- `hostWatchW`: address variants (R60). -/
  watchW  : List Variant
  /-- `ioRead`: the value each input port supplies; a port with no entry has no device and reads 0 (R276). -/
  ioIn    : List (Addr × Word)
deriving DecidableEq, Repr

/-- One output event `ioWrite(port, value)` (R276). -/
structure IoWrite where
  port  : Addr
  value : Word
deriving DecidableEq, Repr

/-- The whole state. The fields down to `stopped` are the spec's; the rest are the host's inputs and parameters and
the model's own bookkeeping, each marked so. The registers `M[0..29]` are read and written only through `State.getM`,
`State.putM`; `M[0]` is hardwired to zero and has no storage (R14). -/
structure State where
  /-- `ACC`, the accumulator (R12). -/
  acc : Word
  /-- `RMR`, the remainder register (R12). -/
  rmr : Word
  /-- `RAU`, the arithmetic mode flags (R17). -/
  rau : BitVec 6
  /-- `RUU`, the processor mode register (R19). -/
  ruu : BitVec 9
  /-- `PC` (R13). -/
  pc : Addr
  /-- `M[1] .. M[0o33]`, 15 bits each (R14, R15): `M[r]` is entry `r - 1`. -/
  m : Vector Addr 27
  /-- `M[0o34]`, the instruction breakpoint register, 16 bits (R15). -/
  ibp : Variant
  /-- `M[0o35]`, the data watch register, 16 bits (R15). -/
  dwp : Variant
  /-- `GRP`, the main interrupt causes (R25). -/
  grp : BitVec 48
  /-- `MGRP`, the mask of GRP (R25). -/
  mgrp : BitVec 48
  /-- `PRP`, the peripheral interrupt causes (R25, R277). -/
  prp : BitVec 24
  /-- `MPRP`, the mask of PRP (R25, R277). -/
  mprp : BitVec 24
  /-- `BRZ`, `BAZ`, `TABST`, `FLUSH` (R27, R28). -/
  cache : Cache
  /-- `BRS`, `BAS`, `BRSLRU` (R29). -/
  prefetch : Prefetch
  /-- `RP`, `TLB`, `RZ` (R30, R31). -/
  pages : Pages
  /-- `mem`: the physical memory array, in the canonical form of `Memory.wf` (R32, R50). Its words 0 to 7 lie under the
  console registers (R54): only DMA reaches them (notes/assumptions/25.md). -/
  mem : List Cell
  /-- `in_dispatch`: the two-state machine's trap-dispatch state (R33, R320). -/
  inDispatch : Bool
  /-- `stopped`: the stop code the run loop has returned, if it has (R33, R330). -/
  stopped : Option StopCode
  /-- MODEL's own: the coming cycle resumes from a `Breakpoint` stop and skips the test once (R150, R330). -/
  resuming : Bool
  /-- MODEL's own: the output events emitted so far, oldest first (R276). -/
  ioOut : List IoWrite
  /-- MODEL's own: how many free values have been drawn (the argument of the opaque constants of Config). -/
  draws : Nat
  /-- The host's inputs (R6). -/
  host : HostInputs
  /-- The parameters (R6). -/
  cfg : Config.Params
deriving DecidableEq, Repr

/-- Why the model stops with a fault: an access the spec's map has no place for. -/
inductive Fault where
  /-- Raised by every access to physical memory at `p` with `MEM_WORDS <= p` (R50), of the core or by DMA: no such word
  exists. Safe: it ends the run. In a step it needs a page-frame number above `FRAME_MASK` in TLB, which no instruction
  writes (R82) and which the invariant `State.Inv` rules out; a DMA port raises it for a peripheral that names such a
  word (notes/assumptions/15.md). -/
  | noSuchAddress (p : Nat)
deriving DecidableEq, Repr

/-- Why the model gives no next state. -/
inductive Refusal where
  /-- Raised by the dispatcher alone, for an instruction that has no meaning yet. Safe. -/
  | notModelled (mnemonic : String)
  /-- Raised where `victim()` or `victim4()` is needed and the tournament table encodes no total order: "rule R58 then
  has no defined result" (93_implementation_defined.md U6, which says to refuse). Safe. No rule writes such a table
  (R68); the invariant `State.Inv` rules it out. -/
  | recencyNotAnOrder
deriving DecidableEq, Repr

/-- What one step or one meaning answers. -/
abbrev Answer := Host.Outcome State Fault Refusal

/-- The reset procedure of R350, on any state. What R351 lists is untouched: `mem`, the console and the other host
inputs, `PRP`, `MPRP`, the parameters. Dirty cache slots are discarded. Output events already emitted and the draw
counter, the model's own, stay. -/
def State.resetFrom (s : State) : State :=
  { s with
    acc := 0, rmr := 0, rau := 0
    ruu := 0o44
    m := ((Vector.replicate 27 0).set 16 0o2017).set 22 0o2007
    ibp := 0, dwp := 0
    grp := 0, mgrp := 0
    cache := { brz := Vector.replicate 8 ⟨0, 0⟩, baz := Vector.replicate 8 0, tabst := 0, flush := 0 }
    prefetch := { brs := Vector.replicate 4 ⟨0, 0⟩, bas := Vector.replicate 4 0, lru := 0 }
    pages := { rp := Vector.replicate 8 0, tlb := Vector.replicate 32 0, rz := 0 }
    inDispatch := false, stopped := none, resuming := false
    pc := s.cfg.resetPc }

/-- The state before the first reset, for what reset leaves alone (R351): nothing listed in memory, the console
switches 0, no host set, no input device, `PRP = MPRP = 0`. DESIGN CHOICE (notes/assumptions/2.md to 5.md). Every
register that reset writes is 0 here and means nothing. -/
def State.powerOn : State :=
  { acc := 0, rmr := 0, rau := 0, ruu := 0, pc := 0, m := Vector.replicate 27 0, ibp := 0, dwp := 0
    grp := 0, mgrp := 0, prp := 0, mprp := 0
    cache := { brz := Vector.replicate 8 ⟨0, 0⟩, baz := Vector.replicate 8 0, tabst := 0, flush := 0 }
    prefetch := { brs := Vector.replicate 4 ⟨0, 0⟩, bas := Vector.replicate 4 0, lru := 0 }
    pages := { rp := Vector.replicate 8 0, tlb := Vector.replicate 32 0, rz := 0 }
    mem := [], inDispatch := false, stopped := none, resuming := false, ioOut := [], draws := 0
    host := { console := Vector.replicate 8 0, breakE := [], watchR := [], watchW := [], ioIn := [] }
    cfg := Config.Params.suggested }

/-- The machine right after reset (R350, R352). -/
def State.reset : State := State.powerOn.resetFrom

end Sys2Proof.Machine
end

