-- ==== Sys2Proof/Machine/Ops.lean ====
section
/-!
DEFINITION. The shared operations: how a part of a cycle ends (`Res`), the bit fields, physical memory, the index
registers M, the bits of PSW and RUU, taking a fault or an interrupt (60_exceptions.md R305, R306, R310 to R320),
entering an extracode (R262) and returning from either (R278).
-/
namespace Sys2Proof.Machine

/-! ### How a part of a cycle ends -/

/-- Why a part of a cycle has no outcome of the machine at all. -/
inductive Stuck where
  | fault (r : Fault)
  | refusal (r : Refusal)
deriving DecidableEq, Repr

/-- The result of a part of a cycle: it completes with a value, or raises a fault of R311 with the state the abandoned
instruction leaves (R160), or the model is stuck. -/
inductive Res (α : Type) where
  | ok (a : α) (s : State)
  | raise (c : Cause) (s : State)
  | stuck (x : Stuck)

/-- Go on with `k` where `r` completes; a raise abandons the rest of the instruction (R8 `raise`, R310). -/
def Res.andThen {α β : Type} (r : Res α) (k : α → State → Res β) : Res β :=
  match r with
  | .ok a s => k a s
  | .raise c s => .raise c s
  | .stuck x => .stuck x

/-! ### Bit fields -/

/-- `x` with bit `i` set to `b`. -/
def setBit {w : Nat} (x : BitVec w) (i : Nat) (b : Bool) : BitVec w :=
  if b then x ||| (1#w <<< i) else x &&& ~~~(1#w <<< i)

/-- `x` with the field of `n` bits from bit `lo` up replaced by `v`. -/
def setField {w n : Nat} (x : BitVec w) (lo : Nat) (v : BitVec n) : BitVec w :=
  (x &&& ~~~((BitVec.allOnes n).setWidth w <<< lo)) ||| (v.setWidth w <<< lo)

/-! ### Physical memory (R32, R50) -/

/-- What an unlisted word of memory reads as: tag 0 (unclassified), data 0. DESIGN CHOICE, unsafe
(notes/assumptions/2.md): the content of memory before anything has written it is unspecified (U1). -/
def Memory.blank : TWord := ⟨0, 0⟩

/-- The word at `p`. -/
def Memory.read : List Cell → Nat → TWord
  | [], _ => Memory.blank
  | (a, w) :: rest, p => if p = a then w else Memory.read rest p

/-- Memory with the word `w` at `p`, in the canonical form: writing what an unlisted word reads as removes the entry. -/
def Memory.write : List Cell → Nat → TWord → List Cell
  | [], p, w => if w = Memory.blank then [] else [(p, w)]
  | (a, x) :: rest, p, w =>
    if p < a then (if w = Memory.blank then (a, x) :: rest else (p, w) :: (a, x) :: rest)
    else if p = a then (if w = Memory.blank then rest else (p, w) :: rest)
    else (a, x) :: Memory.write rest p w

/-- The canonical form: addresses strictly rising, no entry equal to what an unlisted word reads as. -/
def Memory.wf : List Cell → Bool
  | [] => true
  | (a, w) :: rest => decide (w ≠ Memory.blank) && rest.all (fun c => decide (a < c.1)) && Memory.wf rest

/-! ### The registers M[0..29] (R14 to R16) -/

/-- `M[r]`, its low 15 bits (`readM` of R238 reads no more): `M[0]` is hardwired to zero. -/
def State.getM (s : State) (r : Nat) : Addr :=
  if r = 0 then 0
  else if r = 0o34 then s.ibp.setWidth 15
  else if r = 0o35 then s.dwp.setWidth 15
  else (s.m[r - 1]?).getD 0

/-- `PSW`, the current status word `M[0o21]` (R23). -/
def State.psw (s : State) : Addr := s.getM 0o21

/-- `SPSW`, the saved status word `M[0o27]` (R24). -/
def State.spsw (s : State) : Addr := s.getM 0o27

/-- `SP`, the stack pointer `M[0o17]` (R15, R157). -/
def State.sp (s : State) : Addr := s.getM 0o17

/-- `PSW.MMAP_DISABLE` (R23). -/
def State.mmapDisable (s : State) : Bool := s.psw.getLsbD 0

/-- `PSW.PROT_DISABLE` (R23). -/
def State.protDisable (s : State) : Bool := s.psw.getLsbD 1

/-- `PSW.INTR_HALT` (R23). -/
def State.intrHalt (s : State) : Bool := s.psw.getLsbD 2

/-- `PSW.CHECK_HALT` (R23). -/
def State.checkHalt (s : State) : Bool := s.psw.getLsbD 3

/-- `PSW.WRITE_WATCH` (R23). -/
def State.writeWatch (s : State) : Bool := s.psw.getLsbD 4

/-- `PSW.INTR_DISABLE` (R23). -/
def State.intrDisable (s : State) : Bool := s.psw.getLsbD 10

/-- The 16-bit variant of a program address: bit 15 set when unmapped (R56). -/
def variant (unmapped : Bool) (a : Addr) : Variant := BitVec.ofBool unmapped ++ a

/-- `writeM` of R238: a write to `M[0]` is discarded; `M[0o34]` and `M[0o35]` get bit 15 while `PSW.MMAP_DISABLE = 1`
(R16); a write to the absent `M[0o36]`, `M[0o37]` is discarded (U3). -/
def State.putM (s : State) (r : Nat) (v : Addr) : State :=
  if r = 0 then s
  else if r = 0o34 then { s with ibp := variant s.mmapDisable v }
  else if r = 0o35 then { s with dwp := variant s.mmapDisable v }
  else { s with m := s.m.setIfInBounds (r - 1) v }

/-! ### The bits of RUU (R19 to R22) -/

/-- `RUU.RIGHT` (R20). -/
def State.right (s : State) : Bool := s.ruu.getLsbD 8

/-- `RUU.MOD` (R21). -/
def State.modPending (s : State) : Bool := s.ruu.getLsbD 4

/-- `RUU.ALU_HALT_DISABLE` (R19). -/
def State.aluHaltDisable (s : State) : Bool := s.ruu.getLsbD 5

/-- `SUP`, supervisor mode: `RUU[2] | RUU[3]` (R22). -/
def State.sup (s : State) : Bool := s.ruu.getLsbD 2 || s.ruu.getLsbD 3

/-- The tag a store writes: `RUU[1:0] xor 0b01` (R57). -/
def State.storeTag (s : State) : BitVec 2 := s.ruu.extractLsb' 0 2 ^^^ 1

/-- `RUU.RIGHT <- b`. -/
def State.setRight (s : State) (b : Bool) : State := { s with ruu := setBit s.ruu 8 b }

/-- `RUU.MOD <- b`. -/
def State.setModPending (s : State) (b : Bool) : State := { s with ruu := setBit s.ruu 4 b }

/-- `setSupervisor(k)`, with `k` the new value of `RUU[3:2]`: `0b01` is the rule's 0o04, `0b10` its 0o10 (R22). -/
def State.setMode (s : State) (k : BitVec 2) : State := { s with ruu := setField s.ruu 2 k }

/-- `pc <- t`: control transfers land on the left half (R158). -/
def State.jump (s : State) (t : Addr) : State := { s with pc := t }.setRight false

/-! ### Taking a fault or an interrupt -/

/-- The bits of PSW that every entry saves and every return restores: `INTR_DISABLE`, `PROT_DISABLE`, `MMAP_DISABLE`
(R262, R278, R305). -/
def pswSaved : Addr := 0o2003

/-- `(PSW & 0o2003) | (RUU & 0o14)`: what SPSW gets on every entry (R262, R305). -/
def State.savedStatus (s : State) : Addr := (s.psw &&& pswSaved) ||| (s.ruu &&& 0o14).setWidth 15

/-- The vector of every internal fault (R305, R310). -/
def faultVector : Addr := 0o500

/-- The vector of every external interrupt (R306). -/
def interruptVector : Addr := 0o501

/-- `TrapEntry(vector)` (R305): SPSW gets the saved status with the half (bit 8) and the pending-modifier flag (bit 4);
IRET `M[0o33]` gets PC; PSW gets mapping, protection and interrupts disabled; the mode becomes supervisor by
interrupt; `M[0o20]` keeps the modifier. -/
def State.trapEntry (s : State) (vector : Addr) : State :=
  let saved := setBit (setBit s.savedStatus 8 s.right) 4 s.modPending
  ((((s.putM 0o27 saved).putM 0o33 s.pc).putM 0o21 (s.psw ||| pswSaved)).setModPending false
    |>.setMode 0b10).jump vector

/-- GRP after a trap for `c` (R311): bits not named keep their value. -/
def noteCause (c : Cause) (g : BitVec 48) : BitVec 48 :=
  match c with
  | .illegalInsn => setBit g 12 true
  | .insnCheck => setBit g 14 true
  | .insnProt => setBit g 13 true
  | .insnBreakpoint => setBit g 11 true
  | .operandProt page => setField (setBit g 19 true) 4 page
  | .loadWatch => setBit g 15 true
  | .storeWatch => setBit g 16 true
  | .ramCheck block => setField (setBit (setBit g 20 true) 3 true) 0 block
  | .cacheCheck slot => setField (setBit (setBit g 20 true) 3 false) 0 slot
  | .overflow => setBit (setBit (setBit g 21 true) 20 true) 3 true
  | .divZero => setBit (setBit (setBit (setBit g 22 true) 21 true) 20 true) 3 true
  | .hostWatchR => g
  | .hostWatchW => g

/-- `halts(F)` with its stop code (R315, R316): the code where the fault stops the run instead of trapping. -/
def State.haltCode (s : State) (c : Cause) : Option StopCode :=
  match c with
  | .illegalInsn => if s.intrHalt then some .illegalInsn else none
  | .insnProt => if s.intrHalt then some .insnProt else none
  | .insnBreakpoint => if s.intrHalt then some .insnBreakpoint else none
  | .loadWatch => if s.intrHalt then some .loadWatch else none
  | .storeWatch => if s.intrHalt then some .storeWatch else none
  | .insnCheck => if s.checkHalt then some .insnCheck else none
  | .ramCheck _ => if s.checkHalt then some .ramCheck else none
  | .cacheCheck _ => if s.checkHalt then some .cacheCheck else none
  | .operandProt _ => none
  | .overflow => if !s.aluHaltDisable && (s.intrHalt || s.checkHalt) then some .overflow else none
  | .divZero => if !s.aluHaltDisable && (s.intrHalt || s.checkHalt) then some .divZero else none
  | .hostWatchR => some .hostWatchR
  | .hostWatchW => some .hostWatchW

/-- `stop <Code>`: leave the run loop with a stop code (R8, R330). -/
def State.stopWith (s : State) (c : StopCode) : State := { s with stopped := some c }

/-- The rollback of a host watch stop (R318): PC and `RUU.RIGHT` denote the watched instruction again. -/
def State.rollBack (s : State) : State :=
  (if s.right then s else { s with pc := s.pc - 1 }).setRight (!s.right)

/-- Steps 4 to 6 of the fault handler (R310): trap entry at 0o500, the cause bits, then the double-trap test (R320). -/
def State.trap (s : State) (c : Cause) : State :=
  let t := { s.trapEntry faultVector with grp := noteCause c s.grp }
  if s.inDispatch then t.stopWith .doubleTrap else { t with inDispatch := true }

/-- The central fault handler (R310), after its step 1, which `Res.undoing` has done: a host watch stop rolls back
(R318), a fault that halts stops the run and changes nothing else (R315), any other fault traps. -/
def State.takeCause (s : State) (c : Cause) : State :=
  match c with
  | .hostWatchR => s.rollBack.stopWith .hostWatchR
  | .hostWatchW => s.rollBack.stopWith .hostWatchW
  | c =>
    match s.haltCode c with
    | some code => s.stopWith code
    | none => s.trap c

/-- Step 1 of the fault handler for a part of an instruction that runs with `corr_stack = d`: a raise adds `d` back to
the stack pointer (R157, R310). -/
def Res.undoing {α : Type} (r : Res α) (d : Addr) : Res α :=
  match r with
  | .ok a s => .ok a s
  | .raise c s => .raise c (s.putM 0o17 (s.sp + d))
  | .stuck x => .stuck x

/-! ### Extracode entry and return -/

/-- Extracode entry (R262): ERET `M[0o32]` gets the link, SPSW the saved status (neither `RIGHT` nor `MOD`), PSW the value
0o2007, `M[0o16]` the argument; the mode becomes supervisor by extracode. -/
def State.enterExtracode (s : State) (entry aex link : Addr) : State :=
  ((((s.putM 0o32 link).putM 0o27 s.savedStatus).putM 0o21 0o2007).putM 0o16 aex
    |>.setMode 0b01).jump entry

/-- The entry address of extracode `nn` (R262): `0o500 + NN` for a short opcode, `0o540 + (NN >> 3)` for a long one. -/
def extracodeEntry (nn : Nat) : Addr :=
  if nn ≤ 0o77 then BitVec.ofNat 15 (0o500 + nn) else BitVec.ofNat 15 (0o540 + nn / 8)

/-- The return of `ij` (R278), but for the pending modifier it re-arms: PSW keeps `WRITE_WATCH` and gets the three saved
bits; PC comes from `M[0o30 | reg[1:0]]`; the half and the mode come from SPSW. -/
def State.returnFrom (s : State) (reg : BitVec 4) : State :=
  let saved := s.spsw
  let t := s.putM 0o21 ((s.psw &&& 0o20) ||| (saved &&& pswSaved))
  ({ t with pc := s.getM (0o30 + (reg.extractLsb' 0 2).toNat) }.setRight (saved.getLsbD 8)).setMode
    (saved.extractLsb' 2 2)

end Sys2Proof.Machine
end

