-- ==== Sys2Proof/Machine/Alu.lean ====
section
/-!
DEFINITION. The Arithmetic Unit (40_alu_operations.md): functions of ACC, RMR, the operand and the mode flags, with no
state of their own. Exponents are exact integers until a result is packed (R120).
-/
namespace Sys2Proof.Machine.Alu

/-- The working register (R120): a 42-bit mantissa whose top two bits duplicate the sign, and an exponent. -/
structure Work where
  m : BitVec 42
  e : Int
deriving DecidableEq, Repr

/-- What an operation leaves in ACC and RMR, and whether it raises `Overflow` after writing them (R125 (c)). -/
structure Out where
  acc      : Word
  rmr      : Word
  overflow : Bool
deriving DecidableEq, Repr

/-- The exponent field `w[47:41]` (R11). -/
def exponent (w : Word) : BitVec 7 := w.extractLsb' 41 7

/-- The mantissa field `w[40:0]` (R11). -/
def mantissa (w : Word) : BitVec 41 := w.extractLsb' 0 41

/-- `unpackALU(w)` (R121): the mantissa with its sign duplicated. -/
def unpack (w : Word) : Work := { m := (mantissa w).signExtend 42, e := (exponent w).toNat }

/-- `isNeg(a)` (R121). -/
def Work.isNeg (a : Work) : Bool := a.m.getLsbD 40

/-- `negate(a)` (R122): a mantissa whose negation does not fit is shifted right, with the exponent one up. -/
def Work.negate (a : Work) : Work :=
  let n := -a.m
  let b : Work := if n.getLsbD 41 != n.getLsbD 40 then { m := n >>> 1, e := a.e + 1 } else { m := n, e := a.e }
  { b with m := setBit b.m 41 (b.m.getLsbD 40) }

/-- `lead(r)` of R123: the number of zero bits above the highest one of a 40-bit `r`. -/
def lead (r : BitVec 40) : Nat := 39 - r.toNat.log2

/-- `RMR[47:40] ++ mr`: the upper eight bits are kept (R124). -/
def keepUpper (rmr : Word) (mr : BitVec 40) : Word := rmr.extractLsb' 40 8 ++ mr

/-- The arm ZERO of R124: the canonical zero, and the low 40 bits of RMR cleared. -/
def zeroOut (rmr : Word) : Out := { acc := 0, rmr := keepUpper rmr 0, overflow := false }

/-- What normalization leaves (the `case` of R124): the mantissa, exponent and remainder, and whether remainder bits
entered the mantissa (`rr != 0`). -/
structure Normal where
  m  : BitVec 42
  e  : Int
  mr : BitVec 40
  rr : Bool
deriving DecidableEq, Repr

/-- The sign bit of a negative mantissa, `2^40`, in a 42-bit register (R124). -/
def signBit : BitVec 42 := 0o20000000000000

/-- The `case m[40:39]` of R124, `none` for its `go to ZERO`. -/
def normalize (a : Work) (mr : BitVec 40) : Option Normal :=
  let low := a.m.setWidth 40
  match a.m.getLsbD 40, a.m.getLsbD 39 with
  | false, false =>
    if low ≠ 0 then
      let c := lead low
      let rr := mr >>> (40 - c)
      some { m := (low <<< c ||| rr).setWidth 42, e := a.e - c, mr := mr <<< c, rr := decide (rr ≠ 0) }
    else if mr ≠ 0 then
      let c := lead mr
      some { m := (mr <<< c).setWidth 42, e := a.e - 40 - c, mr := 0, rr := true }
    else none
  | true, true =>
    if ~~~low ≠ 0 then
      let c := lead (~~~low)
      let rr := mr >>> (40 - c)
      some { m := signBit ||| (low <<< c ||| rr).setWidth 42, e := a.e - c, mr := mr <<< c, rr := decide (rr ≠ 0) }
    else if ~~~mr ≠ 0 then
      let c := lead (~~~mr)
      some { m := signBit ||| (mr <<< c).setWidth 42, e := a.e - 40 - c, mr := 0, rr := decide (mr ≠ 0) }
    else some { m := signBit, e := a.e - 80, mr := 0, rr := true }
  | _, _ => some { m := a.m, e := a.e, mr := mr, rr := false }

/-- `RAU.NORM_DISABLE` (R17). -/
def normDisable (rau : BitVec 6) : Bool := rau.getLsbD 0

/-- `RAU.ROUND_DISABLE` (R17). -/
def roundDisable (rau : BitVec 6) : Bool := rau.getLsbD 1

/-- `RAU.OVF_DISABLE` (R17). -/
def ovfDisable (rau : BitVec 6) : Bool := rau.getLsbD 5

/-- `ACC <- (e mod 128) << 41 | m[40:0]` (R124). -/
def pack (m : BitVec 42) (e : Int) : Word := BitVec.ofInt 7 e ++ m.setWidth 41

/-- `NormRound(a, mr, rq)` (R124, R125): normalize unless disabled, underflow to zero, round by setting the low mantissa
bit, pack, and note an exponent of 128 or more as overflow unless that is disabled. -/
def normRound (rau : BitVec 6) (rmr : Word) (a : Work) (mr : BitVec 40) (rq : Bool) : Out :=
  match (if normDisable rau then some { m := a.m, e := a.e, mr := mr, rr := false } else normalize a mr) with
  | none => zeroOut rmr
  | some n =>
    if n.e < 0 then zeroOut rmr
    else
      let m := if !roundDisable rau && (rq && !n.rr) then n.m ||| 1 else n.m
      if m = 0 ∧ normDisable rau = false then zeroOut rmr
      else { acc := pack m n.e, rmr := keepUpper rmr n.mr, overflow := decide (128 ≤ n.e) && !ovfDisable rau }

/-! ### Add, subtract, reverse subtract, subtract magnitudes (R127) -/

/-- The pre-negation of the two operands (R127): `(0,1)` subtracts, `(1,0)` reverse subtracts, `(1,1)` subtracts
magnitudes. -/
def preNegate (negA negX : Bool) (a b : Work) : Work × Work :=
  match negA, negX with
  | false, false => (a, b)
  | false, true => (a, b.negate)
  | true, false => (a.negate, b)
  | true, true => (if a.isNeg then a.negate else a, if b.isNeg then b else b.negate)

/-- The aligned operand: its mantissa shifted right by the exponent difference `d`, the bits shifted out, and the sticky
round request (R127). -/
structure Aligned where
  m  : BitVec 42
  mr : BitVec 40
  rq : Bool
deriving DecidableEq, Repr

/-- The three ranges of the alignment shift (R127). -/
def align (s : Work) (d : Nat) : Aligned :=
  if d = 0 then { m := s.m, mr := 0, rq := false }
  else if d ≤ 40 then
    let mr := (s.m <<< (40 - d)).setWidth 40
    { m := s.m.sshiftRight d, mr := mr, rq := decide (mr ≠ 0) }
  else
    let sign : BitVec 42 := if s.isNeg then BitVec.allOnes 42 else 0
    if d ≤ 80 then { m := sign, mr := (s.m.sshiftRight (d - 40)).setWidth 40, rq := decide (s.m ≠ 0) }
    else { m := sign, mr := sign.setWidth 40, rq := decide (s.m ≠ 0) }

/-- `Add(x, negA, negX)` (R127): align by exponent, add the mantissas in 43 bits, shift right once on the overflow
pattern, then `NormRound`. -/
def add (rau : BitVec 6) (acc rmr x : Word) (negA negX : Bool) : Out :=
  let (a, b) := preNegate negA negX (unpack acc) (unpack x)
  let (s, g) := if a.e < b.e then (a, b) else (b, a)
  let t := align s (g.e - s.e).toNat
  let sum : BitVec 43 := t.m.setWidth 43 + g.m.setWidth 43
  if sum.getLsbD 41 != sum.getLsbD 40 then
    normRound rau rmr { m := (sum >>> 1).setWidth 42, e := g.e + 1 } (setBit (t.mr >>> 1) 39 (sum.getLsbD 0))
      (t.rq || sum.getLsbD 0)
  else normRound rau rmr { m := sum.setWidth 42, e := g.e } t.mr t.rq

/-! ### Multiply and divide (R130 to R132) -/

/-- `Multiply(x)` (R130): a zero word short-circuits; otherwise the exact 82-bit product of the magnitudes, with its
sign, is normalized and rounded. -/
def multiply (rau : BitVec 6) (acc rmr x : Word) : Out :=
  if acc = 0 ∨ x = 0 then zeroOut rmr
  else
    let a := unpack acc
    let b := unpack x
    let p : BitVec 82 := BitVec.ofNat 82 (a.m.toInt.natAbs * b.m.toInt.natAbs)
    let q := if a.isNeg != b.isNeg then -p else p
    let mr : BitVec 40 := q.extractLsb' 0 40
    normRound rau rmr { m := q.extractLsb' 40 42, e := a.e + b.e - 64 } mr (decide (mr ≠ 0))

/-- The non-restoring loop of R132: `fuel` rounds are left, so that `q = 2^fuel`; `nn` is the partial remainder, `dd`
the divisor, `res` the quotient so far. -/
def divLoop (dd : Int) : Nat → Int → Int → Int
  | 0, _, res => res
  | fuel + 1, nn, res =>
    let q : Int := 2 ^ (fuel + 1)
    if nn = 0 then res
    else if nn.natAbs < 2 ^ 39 then divLoop dd fuel (2 * nn) res
    else if decide (0 < nn) != decide (0 < dd) then divLoop dd fuel (2 * nn + dd) (res - q)
    else divLoop dd fuel (2 * nn - dd) (res + q)

/-- `divQuotient(n, d)`, the default algorithm of R132. -/
def divQuotient (n d : Work) : Work :=
  let nn := 2 * n.m.toInt
  let dd := 2 * d.m.toInt
  let big := dd.natAbs ≤ nn.natAbs
  let res := divLoop dd 40 (if big then n.m.toInt else nn) 0
  { m := BitVec.ofInt 42 (res / 2), e := (if big then n.e + 1 else n.e) - d.e + 64 }

/-- Whether the top two mantissa bits of a word are equal: "a denormalized/zero pattern" (R11, R131). -/
def denormalized (x : Word) : Bool := x.getLsbD 40 == x.getLsbD 39

/-- `Divide(x)` by a divisor that is normalized (R131): no remainder is delivered, nothing is rounded. -/
def divide (rau : BitVec 6) (acc rmr x : Word) : Out :=
  normRound rau rmr (divQuotient (unpack acc) (unpack x)) 0 false

/-! ### Shift, change sign, add to exponent (R134, R135) -/

/-- `Shift(n)` (R134): ACC and RMR after a logical shift of the word, right for a positive `n`. -/
def shift (n : Int) (v : Word) : Word × Word :=
  if n = 0 then (v, 0)
  else if 0 < n then
    let k := n.toNat
    if k < 48 then (v >>> k, v <<< (48 - k)) else (0, v >>> (k - 48))
  else
    let k := (-n).toNat
    if k < 48 then (v <<< k, v >>> (48 - k)) else (0, v <<< (k - 48))

/-- `ChangeSign(neg)` (R135): all of RMR is cleared first. -/
def changeSign (rau : BitVec 6) (acc : Word) (neg : Bool) : Out :=
  normRound rau 0 (if neg then (unpack acc).negate else unpack acc) 0 false

/-- `AddExponent(k)` (R135): all of RMR is cleared first. -/
def addExponent (rau : BitVec 6) (acc : Word) (k : Int) : Out :=
  normRound rau 0 { unpack acc with e := (unpack acc).e + k } 0 false

/-! ### Pack, unpack, count, cyclic add (R137 to R140) -/

/-- `Pack` mask bit by mask bit from low to high: each selected bit enters at the top and pushes the earlier ones down
(R137). `n` bits of the mask, from bit `48 - n` up, are left. -/
def gatherFrom (v mask : Word) : Nat → Word → Word
  | 0, r => r
  | n + 1, r =>
    let i := 48 - (n + 1)
    gatherFrom v mask n (if mask.getLsbD i then setBit (r >>> 1) 47 (v.getLsbD i) else r)

/-- `Pack(v, mask)` (R137): the selected bits, in order, at the top of the word. -/
def gather (v mask : Word) : Word := gatherFrom v mask 48 0

/-- `Unpack` mask bit by mask bit from high to low: each selected position takes the top bit of what is left of `v`.
`n` bits of the mask, from bit `n - 1` down, are left. -/
def scatterFrom (mask : Word) : Nat → Word → Word → Word
  | 0, _, r => r
  | n + 1, v, r =>
    if mask.getLsbD n then scatterFrom mask n (v <<< 1) (setBit r n (v.getLsbD 47)) else scatterFrom mask n v r

/-- `Unpack(v, mask)` (R137): the top bits of `v`, in order, at the mask positions. -/
def scatter (v mask : Word) : Word := scatterFrom mask 48 v 0

/-- `CountOnes(w)` (R138). -/
def countOnes (w : Word) : Nat := ((List.range 48).filter fun i => w.getLsbD i).length

/-- `HighestBit(w)` for `w != 0` (R139): 1 for bit 47, 48 for bit 0. -/
def highestBit (w : Word) : Nat := 48 - w.toNat.log2

/-- `CyclicAdd(u, v)` (R140): addition with end-around carry. -/
def cyclicAdd (u v : Word) : Word :=
  if u.toNat + v.toNat < 2 ^ 48 then u + v else u + v + 1

end Sys2Proof.Machine.Alu
end

