-- ==== Sys2Proof/Machine/Flags.lean ====
section
/-!
DEFINITION. The operation class in RAU: its predicates and setters (10_state.md R17, R18), and the branch condition
`omega` computed from it (45_control_transfer_extracode.md R258).
-/
namespace Sys2Proof.Machine

/-- `isAdditive = RAU[4]` (R18). -/
def isAdditive (rau : BitVec 6) : Bool := rau.getLsbD 4

/-- `isMultiplicative = (RAU[4] = 0 and RAU[3] = 1)` (R18). -/
def isMultiplicative (rau : BitVec 6) : Bool := !rau.getLsbD 4 && rau.getLsbD 3

/-- `isLogical = (RAU[4:2] = 0b001)` (R18). -/
def isLogical (rau : BitVec 6) : Bool := rau.extractLsb' 2 3 == 0b001

/-- `RAU <- (RAU & 0o43) | c`: only the class bits `RAU[4:2]` change (R18). -/
def State.setClass (s : State) (c : BitVec 6) : State := { s with rau := (s.rau &&& 0o43) ||| c }

/-- `setLogical` (R18). -/
def State.setLogical (s : State) : State := s.setClass 0o04

/-- `setMultiplicative` (R18). -/
def State.setMultiplicative (s : State) : State := s.setClass 0o10

/-- `setAdditive` (R18). -/
def State.setAdditive (s : State) : State := s.setClass 0o20

/-- The branch condition `omega` (R258): additive takes precedence, no class gives true. -/
def omegaCond (rau : BitVec 6) (acc : Word) : Bool :=
  if isAdditive rau then acc.getLsbD 40
  else if isMultiplicative rau then !acc.getLsbD 47
  else if isLogical rau then acc != 0
  else true

end Sys2Proof.Machine
end

