-- ==== Sys2Proof/Machine/Recency.lean ====
section
/-!
DEFINITION. The tournament (recency) tables of the two caches (20_memory.md R58, R68, R74): one bit for each unordered
pair of slots. `row` is the rule's list of row starts and `size` the number of slots.
-/
namespace Sys2Proof.Machine

namespace Recency

/-- `row` of R58, for the 28-bit table of the eight cache slots. -/
def row8 : List Nat := [0, 7, 13, 18, 22, 25, 27]

/-- `row4` of R74, for the 6-bit table of the four prefetch slots. -/
def row4 : List Nat := [0, 3, 5]

/-- The bit of the pair `n < m`: `idx(n, m) = row(n) + (m - n - 1)` (R58, R74). -/
def idx (row : List Nat) (n m : Nat) : Nat := row.getD n 0 + (m - n - 1)

/-- `beats(i, j)`: slot `i` was used more recently than slot `j` (R58). -/
def beats {w : Nat} (row : List Nat) (t : BitVec w) (i j : Nat) : Bool :=
  if i < j then t.getLsbD (idx row i j) else !t.getLsbD (idx row j i)

/-- The bits that say slot `k` beats a slot of a higher number. -/
def wonBits (w : Nat) (row : List Nat) (size k : Nat) : BitVec w :=
  (List.range size).foldl (fun b m => if k < m then setBit b (idx row k m) true else b) 0

/-- The bits that say a slot of a lower number beats slot `k`. -/
def lostBits (w : Nat) (row : List Nat) (size k : Nat) : BitVec w :=
  (List.range size).foldl (fun b n => if n < k then setBit b (idx row n k) true else b) 0

/-- `setWins(k)` (R58): sets `k`'s bits against the slots above it and clears those of the slots below it. -/
def setWins {w : Nat} (row : List Nat) (size : Nat) (t : BitVec w) (k : Nat) : BitVec w :=
  (t ||| wonBits w row size k) &&& ~~~(lostBits w row size k)

/-- `losesToAll(k)` (R58). -/
def losesToAll {w : Nat} (row : List Nat) (size : Nat) (t : BitVec w) (k : Nat) : Bool :=
  (List.range size).all fun j => j == k || beats row t j k

/-- `victim()` of the write-back cache (R58): the slot that loses to all others, if the table has one. -/
def victim8 (t : BitVec 28) : Option (Fin 8) :=
  ([0, 1, 2, 3, 4, 5, 6, 7] : List (Fin 8)).find? fun k => losesToAll row8 8 t k

/-- `victim4()` of the prefetch cache (R74). -/
def victim4 (t : BitVec 6) : Option (Fin 4) :=
  ([0, 1, 2, 3] : List (Fin 4)).find? fun k => losesToAll row4 4 t k

/-- The table encodes a total order of the slots (R68): `beats` is transitive on distinct slots. -/
abbrev isOrder {w : Nat} (row : List Nat) (size : Nat) (t : BitVec w) : Prop :=
  ∀ i j k : Fin size, i ≠ j → j ≠ k → i ≠ k → beats row t i j = true → beats row t j k = true → beats row t i k = true

end Recency

end Sys2Proof.Machine
end

