-- ==== Sys2Proof/Machine/Mmu.lean ====
section
/-!
DEFINITION. The Memory-Management Unit (20_memory.md): address variants and translation, the checks, the store with
its three ways, the load, the instruction fetch with the prefetch cache, the administrative setters, `flush_all`.
-/
namespace Sys2Proof.Machine

/-! ### Addresses (R50 to R57) -/

/-- The page number of a program address, `a[14:10]` (R51). -/
def pageOf (a : Addr) : BitVec 5 := a.extractLsb' 10 5

/-- The frame of a virtual page: `TLB[page]` (R30). -/
def Pages.frame (p : Pages) (page : BitVec 5) : BitVec 12 := p.tlb[page.toNat]'(page.isLt)

/-- `phys(av)` (R55): an unmapped variant is the address itself, a mapped one goes through the TLB as it is now. -/
def State.phys (s : State) (av : Variant) : Nat :=
  if av.getLsbD 15 then (av.setWidth 15).toNat
  else (s.pages.frame (pageOf (av.setWidth 15))).toNat * 1024 + (av.extractLsb' 0 10).toNat

/-- The variant of a data access: unmapped while `PSW.MMAP_DISABLE = 1` (R56). -/
def State.dataVariant (s : State) (a : Addr) : Variant := variant s.mmapDisable a

/-- The variant of a fetch: unmapped in supervisor mode (R76). -/
def State.fetchVariant (s : State) (a : Addr) : Variant := variant s.sup a

/-- The console register at a physical address below 8 (R54). -/
def State.consoleAt (s : State) (p : Nat) : Word := (s.host.console[p]?).getD 0

/-- The unmapped variants 1..7, whose stores are sweep triggers (R54, R65). -/
def isConsoleVariant (av : Variant) : Bool := 0o100001 ≤ av.toNat && av.toNat ≤ 0o100007

/-! ### Checks common to data accesses (R59 to R61) -/

/-- The protection check (R59): the page is closed in RZ and the access is not exempt. -/
def State.isClosed (s : State) (a : Addr) : Bool :=
  !(s.protDisable || (s.sup && s.mmapDisable && decide (a.toNat < 8))) && s.pages.rz.getLsbD (pageOf a).toNat

/-- The fault of a data access at `a`, if the checks find one, in the order of R314: protection, the watch register DWP,
the host's set (R59, R60). -/
def State.dataFault (s : State) (store : Bool) (a : Addr) : Option Cause :=
  let av := s.dataVariant a
  if s.isClosed a then some (.operandProt (pageOf a))
  else if s.dwp == av && s.writeWatch == store then some (if store then .storeWatch else .loadWatch)
  else if store && s.host.watchW.contains av then some .hostWatchW
  else if !store && s.host.watchR.contains av then some .hostWatchR
  else none

/-- `match(av)`: the least slot whose address is `av` (R61). -/
def Cache.search (c : Cache) (av : Variant) : Option (Fin 8) :=
  ([0, 1, 2, 3, 4, 5, 6, 7] : List (Fin 8)).find? fun k => c.baz[k] == av

/-! ### Slots, write-back and the victim (R58, R62) -/

/-- `setWins(k)` on TABST (R58). -/
def State.touch (s : State) (k : Fin 8) : State :=
  { s with cache := { s.cache with tabst := Recency.setWins Recency.row8 8 s.cache.tabst k } }

/-- `BRZ[k] <- w; BAZ[k] <- av`. -/
def State.fillSlot (s : State) (k : Fin 8) (av : Variant) (w : TWord) : State :=
  { s with cache := { s.cache with brz := s.cache.brz.set k w, baz := s.cache.baz.set k av } }

/-- `BAZ[k] <- 0`: the slot becomes empty, its word stays (R62). -/
def State.emptySlot (s : State) (k : Fin 8) : State :=
  { s with cache := { s.cache with baz := s.cache.baz.set k 0 } }

/-- `FLUSH <- n`. -/
def State.setFlush (s : State) (n : BitVec 4) : State := { s with cache := { s.cache with flush := n } }

/-- `TABST <- 0`. -/
def State.clearOrder (s : State) : State := { s with cache := { s.cache with tabst := 0 } }

/-- `mem[p] <- w`. -/
def State.putWord (s : State) (p : Nat) (w : TWord) : State := { s with mem := Memory.write s.mem p w }

/-- `flush(k)`, the write-back of slot `k` (R62); a write-back to the console addresses is discarded (R54). -/
def flushSlot (k : Fin 8) (s : State) : Res Unit :=
  let av := s.cache.baz[k]
  if av = 0 then .ok () s
  else if s.phys av < 8 then .ok () (s.emptySlot k)
  else if s.phys av < s.cfg.memWords then .ok () ((s.putWord (s.phys av) s.cache.brz[k]).emptySlot k)
  else .stuck (.fault (.noSuchAddress (s.phys av)))

/-- `victim()` (R58); without one the table encodes no order and the model refuses (U6). -/
def cacheVictim (s : State) : Res (Fin 8) :=
  match Recency.victim8 s.cache.tabst with
  | some k => .ok k s
  | none => .stuck (.refusal .recencyNotAnOrder)

/-! ### Store (R63 to R67) -/

/-- The bypass store (R63): the word goes through the drawn slot straight to memory; TABST is unchanged. -/
def bypassStore (av : Variant) (w : TWord) (s : State) : Res Unit :=
  if isConsoleVariant av then .ok () s
  else
    let k := Config.bypassSlot s.draws
    flushSlot k ({ s with draws := s.draws + 1 }.fillSlot k av w)

/-- The slot the sweep takes next (R67, R6 `SWEEP_POLICY`). -/
def sweepSlot (s : State) : Res (Fin 8) :=
  match s.cfg.sweep with
  | .byAge => cacheVictim s
  | .byIndex => .ok ⟨s.cache.flush.toNat % 8, by omega⟩ s

/-- The end of a sweep step: `FLUSH <- FLUSH + 1`, and after the eighth `TABST <- 0` (R67). -/
def State.advanceSweep (s : State) : State :=
  let t := s.setFlush (s.cache.flush + 1)
  if t.cache.flush = 8 then t.clearOrder else t

/-- The sweep step of a store to an unmapped console address (R65, R67). -/
def sweepStep (s : State) : Res Unit :=
  if s.cache.flush.toNat < 8 then
    (sweepSlot s).andThen fun k t => (flushSlot k t).andThen fun _ t => .ok () (t.touch k).advanceSweep
  else .ok () s

/-- The slot a normal store writes: the matching one, or the victim after its write-back (R66). -/
def storeSlot (av : Variant) (s : State) : Res (Fin 8) :=
  match s.cache.search av with
  | some k => .ok k s
  | none => (cacheVictim s).andThen fun k t => (flushSlot k t).andThen fun _ t => .ok k t

/-- The normal store (R66). -/
def normalStore (av : Variant) (w : TWord) (s : State) : Res Unit :=
  (storeSlot av s).andThen fun k t => .ok () ((t.fillSlot k av w).touch k)

/-- `MemWrite(a, v)` (R64); a store to address 0 is discarded (R53). -/
def memWrite (a : Addr) (v : Word) (s : State) : Res Unit :=
  if a = 0 then .ok () s
  else match s.dataFault true a with
    | some c => .raise c s
    | none =>
      let av := s.dataVariant a
      if s.cfg.cacheEnable = false then bypassStore av ⟨s.storeTag, v⟩ s
      else if isConsoleVariant av then sweepStep s
      else normalStore av ⟨s.storeTag, v⟩ (s.setFlush 0)

/-! ### Load (R70 to R72) -/

/-- A load miss (R71): a console register without a tag check, or the memory word, which must be a number. -/
def loadMiss (av : Variant) (s : State) : Res Word :=
  let p := s.phys av
  if p < 8 then .ok (s.consoleAt p) s
  else if p < s.cfg.memWords then
    let w := Memory.read s.mem p
    if w.tag = TWord.numberTag then .ok w.data s else .raise (.ramCheck (BitVec.ofNat 3 p)) s
  else .stuck (.fault (.noSuchAddress p))

/-- A load hit at slot `k` (R72): promoted unless it is the victim, before the tag check. -/
def loadHit (k : Fin 8) (s : State) : Res Word :=
  (cacheVictim s).andThen fun v s =>
    let t := if k = v then s else s.touch k
    let w := s.cache.brz[k]
    if w.tag = TWord.numberTag then .ok w.data t else .raise (.cacheCheck (BitVec.ofNat 3 k)) t

/-- `MemRead(a)` (R70); address 0 reads 0 without any check (R53). -/
def memRead (a : Addr) (s : State) : Res Word :=
  if a = 0 then .ok 0 s
  else match s.dataFault false a with
    | some c => .raise c s
    | none =>
      let av := s.dataVariant a
      match (if s.cfg.cacheEnable then s.cache.search av else none) with
      | some k => loadHit k s
      | none => loadMiss av s

/-! ### Instruction fetch and the prefetch cache (R74 to R79) -/

/-- The least prefetch slot whose address is `fv` (R75). -/
def Prefetch.search (c : Prefetch) (fv : Variant) : Option (Fin 4) :=
  ([0, 1, 2, 3] : List (Fin 4)).find? fun k => c.bas[k] == fv

/-- `if commit: setWins4(k)` (R75). -/
def Prefetch.promote (c : Prefetch) (commit : Bool) (k : Fin 4) : Prefetch :=
  if commit then { c with lru := Recency.setWins Recency.row4 4 c.lru k } else c

/-- The word a prefetch miss loads: a console register with the instruction tag, or the memory word (R75). -/
def State.codeWord (s : State) (p : Nat) : TWord :=
  if p < 8 then ⟨TWord.instructionTag, s.consoleAt p⟩ else Memory.read s.mem p

/-- `prefetch(fv, commit)` (R75). With the cache disabled it always reads memory, into slot `fv[1:0]`, and leaves `BAS` and
`BRSLRU` alone; that case is reached with `commit = true` only (`probe`). -/
def prefetch (fv : Variant) (commit : Bool) (s : State) : Res TWord :=
  if s.cfg.cacheEnable then
    match s.prefetch.search fv with
    | some k => .ok s.prefetch.brs[k] { s with prefetch := s.prefetch.promote commit k }
    | none =>
      match Recency.victim4 s.prefetch.lru with
      | none => .stuck (.refusal .recencyNotAnOrder)
      | some k =>
        let p := s.phys fv
        if p < s.cfg.memWords then
          let w := s.codeWord p
          let c := { s.prefetch with bas := s.prefetch.bas.set k fv, brs := s.prefetch.brs.set k w }
          .ok w { s with prefetch := c.promote commit k }
        else .stuck (.fault (.noSuchAddress p))
  else
    let p := s.phys fv
    if p < s.cfg.memWords then
      let w := s.codeWord p
      .ok w { s with prefetch := { s.prefetch with
        brs := s.prefetch.brs.set (fv.extractLsb' 0 2).toNat w (fv.extractLsb' 0 2).isLt } }
    else .stuck (.fault (.noSuchAddress p))

/-- The speculative prefetch, `prefetch(fv, false)` with the result discarded (R79): no effect with the cache disabled
(R75). -/
def probe (fv : Variant) (s : State) : Res Unit :=
  if s.cfg.cacheEnable then (prefetch fv false s).andThen fun _ t => .ok () t else .ok () s

/-- `Fetch(a)` (R77, R78), the checks in the order of R314: address 0, page present, breakpoint, tag. -/
def fetchWord (a : Addr) (s : State) : Res Word :=
  if a = 0 then .raise .insnCheck s
  else if !s.sup && s.pages.frame (pageOf a) == 0 then .raise .insnProt s
  else if s.ibp == s.fetchVariant a then .raise .insnBreakpoint s
  else (prefetch (s.fetchVariant a) true s).andThen fun w t =>
    if w.tag = TWord.instructionTag then .ok w.data t else .raise .insnCheck t

/-! ### Administrative setters (R80 to R83) -/

/-- `set_cache_slot(k, v)` (R80). -/
def State.setCacheSlot (s : State) (k : Fin 8) (v : Word) : State :=
  { s with cache := { s.cache with brz := s.cache.brz.set k ⟨s.storeTag, v⟩ } }

/-- `get_cache_slot(k)` (R80): no tag check. -/
def State.getCacheSlot (s : State) (k : Fin 8) : Word := s.cache.brz[k].data

/-- `set_protection(g, v)`: `RZ[8g+7 : 8g] <- v[27:20]` (R81). -/
def State.setProtection (s : State) (g : BitVec 2) (v : Word) : State :=
  { s with pages := { s.pages with rz := setField s.pages.rz (8 * g.toNat) (v.extractLsb' 20 8) } }

/-- `FRAME_MASK = MEM_WORDS/1024 - 1` (R6). -/
def State.frameMask (s : State) : BitVec 12 := BitVec.ofNat 12 (s.cfg.memWords / 1024 - 1)

/-- `f_j` of R82 before the mask: five low bits `v[5j+4 : 5j]` and five high bits from `v[28+j]`, `v[32+j]`, … -/
def frameField (v : Word) (j : Nat) : BitVec 12 :=
  0#2 ++ BitVec.ofBool (v.getLsbD (44 + j)) ++ BitVec.ofBool (v.getLsbD (40 + j)) ++ BitVec.ofBool (v.getLsbD (36 + j))
    ++ BitVec.ofBool (v.getLsbD (32 + j)) ++ BitVec.ofBool (v.getLsbD (28 + j)) ++ v.extractLsb' (5 * j) 5

/-- `set_page_table_entry(i, v)` (R82): `RP[i]` and `TLB[4i .. 4i+3]` change together; neither cache is touched (R88). -/
def State.setPageRegister (s : State) (i : Fin 8) (v : Word) : State :=
  let f := fun j => frameField v j &&& s.frameMask
  { s with pages := { s.pages with
      rp := s.pages.rp.set i (f 3 ++ f 2 ++ f 1 ++ f 0)
      tlb := (((s.pages.tlb.set (4 * i) (f 0)).set (4 * i + 1) (f 1)).set (4 * i + 2) (f 2)).set (4 * i + 3) (f 3) } }

/-- `flush(0) .. flush(7)` in order, the first part of `flush_all` (R83). -/
def flushSlots : List (Fin 8) → State → Res Unit
  | [], s => .ok () s
  | k :: rest, s => (flushSlot k s).andThen fun _ t => flushSlots rest t

/-- `flush_all` (R83), a port of the host: no instruction invokes it. -/
def flushAll (s : State) : Res Unit :=
  (flushSlots [0, 1, 2, 3, 4, 5, 6, 7] s).andThen fun _ t => .ok () (t.clearOrder.setFlush 0)

end Sys2Proof.Machine
end

