-- ==== Sys2Proof/Machine/Operands.lean ====
section
/-!
DEFINITION. The operand forms: the pending modifier, the executive address, the stack forms (41_engine_cycle.md R154,
R155, R157; 42_memory_arithmetic_instructions.md R172), the register numbers taken from addresses
(44_index_register_instructions.md R238), and what an arithmetic operation writes back.
-/
namespace Sys2Proof.Machine

/-- The address field after the pending modifier (R154). -/
def State.modified (s : State) (addr : Addr) : Addr := if s.modPending then addr + s.getM 0o20 else addr

/-- `ADDR(addr + M[reg])`, the executive address of a class E instruction (R155). -/
def State.execAddr (s : State) (reg : BitVec 4) (addr : Addr) : Addr := addr + s.getM reg.toNat

/-- The condition of the implicit stack forms: the register is the stack pointer and the address is 0 (R157). -/
def isStackForm (reg : BitVec 4) (addr : Addr) : Bool := reg == 0o17 && addr == 0

/-- `M[0o17] <- v`. -/
def State.setSp (s : State) (v : Addr) : State := s.putM 0o17 v

/-- The word at the executive address (R172, `MemRead(Aex)`). -/
def loadAt (reg : BitVec 4) (addr : Addr) (s : State) : Res Word := memRead (s.execAddr reg addr) s

/-- `X <- LoadOperand()` and then the rest of the instruction (R172). In the pop form the stack pointer is decremented
before the address is formed, and the whole rest runs with `corr_stack = +1` (R157). -/
def withOperand {α : Type} (reg : BitVec 4) (addr : Addr) (s : State) (rest : Word → State → Res α) : Res α :=
  if isStackForm reg addr then
    ((loadAt reg addr (s.setSp (s.sp - 1))).andThen rest).undoing 1
  else (loadAt reg addr s).andThen rest

/-- The push form, after the store of `atx` (R157). -/
def State.pushed (s : State) (reg : BitVec 4) (addr : Addr) : State :=
  if isStackForm reg addr then s.setSp (s.sp + 1) else s

/-- The push of `xts` and `its`: store ACC at the stack pointer, then increment it (R157, R173, R233). -/
def pushAcc (s : State) : Res Unit :=
  (memWrite s.sp s.acc s).andThen fun _ t => .ok () (t.setSp (t.sp + 1))

/-- The pop of `stx` and `sti`, and then the rest, which runs with `corr_stack = +1`: decrement the stack pointer, then
load at it (R157, R171, R231). -/
def withPop {α : Type} (s : State) (rest : Word → State → Res α) : Res α :=
  ((memRead (s.sp - 1) (s.setSp (s.sp - 1))).andThen rest).undoing 1

/-- `sel(n)`: a register number taken from an address, 5 bits in supervisor mode, 4 in user mode (R16, R238). -/
def State.sel (s : State) (n : Addr) : Nat :=
  if s.sup then (n.extractLsb' 0 5).toNat else (n.extractLsb' 0 4).toNat

/-- `readM(r)` (R238), and then the rest: the absent registers 0o36, 0o37 give a free value (U3). -/
def withReadM {α : Type} (r : Nat) (s : State) (rest : Addr → State → Res α) : Res α :=
  if 0o36 ≤ r then rest (Config.absentRegister s.draws) { s with draws := s.draws + 1 } else rest (s.getM r) s

/-- ACC and RMR get the result of an arithmetic operation, and then the rest; `Overflow` is raised after they are written
(R124, R125 (c)), so the rest, with its class setter, is skipped (R172). -/
def writeAlu {α : Type} (r : Alu.Out) (s : State) (rest : State → Res α) : Res α :=
  let t := { s with acc := r.acc, rmr := r.rmr }
  if r.overflow then .raise .overflow t else rest t

/-- The bits of PSW that `vtm` and `utm` with `reg = 0` load from the address in supervisor mode (R242, R243). -/
def State.loadPswBits (s : State) (reg : BitVec 4) (addr : Addr) : State :=
  if s.sup && reg == 0 then s.putM 0o21 ((s.psw &&& ~~~pswSaved) ||| (addr &&& pswSaved)) else s

end Sys2Proof.Machine
end

