-- ==== Sys2Proof/Machine/Cycle.lean ====
section
/-!
DEFINITION. The cycle around an instruction (41_engine_cycle.md R150 to R160): its top, the fetch, the advance, the end
of the instruction and of the cycle.
-/
namespace Sys2Proof.Machine

/-! ### The top of the cycle (R150 steps 1 to 3) -/

/-- Step 1: PC is in the host's breakpoint set and this is not the resumption of that stop (R150). -/
def State.atBreakpoint (s : State) : Bool := s.host.breakE.contains s.pc && !s.resuming

/-- Step 2, the peripheral summary: `if PRP & MPRP != 0: GRP[36] <- 1` (R301). -/
def State.summarise (s : State) : State :=
  if s.prp &&& s.mprp = 0 then s else { s with grp := setBit s.grp 36 true }

/-- The test of R303. -/
def State.interruptDue (s : State) : Bool :=
  !s.inDispatch && !s.right && !s.intrDisable && s.grp &&& s.mgrp != 0

/-- Step 3: external-interrupt entry (R306); GRP and `in_dispatch` are not changed. -/
def State.takeInterrupt (s : State) : State := if s.interruptDue then s.trapEntry interruptVector else s

/-- Steps 2 and 3, with the resumption of a breakpoint stop used up. -/
def State.beginCycle (s : State) : State := { s with resuming := false }.summarise.takeInterrupt

/-! ### Fetch (R151) -/

/-- Half selection (R151). -/
def State.selectHalf (s : State) (w : Word) : Half := if s.right then rightHalf w else leftHalf w

/-- `w <- Fetch(PC)` and the half to execute (R151). -/
def fetchHalf (s : State) : Res Half :=
  (fetchWord s.pc s).andThen fun w t => .ok (t.selectHalf w) t

/-! ### Advance (R153) -/

/-- The advance, which comes before the instruction executes (R153). After a left half it probes the next word. The value
is `wrapped`: the sequential increment went from 0o77777 to 0. -/
def advance (s : State) : Res Bool :=
  if s.right then .ok (s.pc == 0o77777) ({ s with pc := s.pc + 1 }.setRight false)
  else (probe (s.fetchVariant (s.pc + 1)) s).andThen fun _ t => .ok false (t.setRight true)

/-! ### The end of the instruction and of the cycle (R159, R150 steps 5 and 6) -/

/-- How an instruction that has not raised ends: whether it transferred control (R158), the modifier it produced, 0 for
none (R159), and the stop code it stops the run with, if any. -/
structure Flow where
  jumped  : Bool
  nextMod : Addr
  stop    : Option StopCode
deriving DecidableEq, Repr

/-- Fall through to the next half-instruction. -/
def Flow.seq : Flow := { jumped := false, nextMod := 0, stop := none }

/-- Control was transferred. -/
def Flow.jump : Flow := { Flow.seq with jumped := true }

/-- Fall through, having produced the modifier `m`. -/
def Flow.modify (m : Addr) : Flow := { Flow.seq with nextMod := m }

/-- Leave the run loop with a stop code. -/
def Flow.halt (c : StopCode) : Flow := { Flow.seq with stop := some c }

/-- The end of the instruction (R159): a produced modifier of 0 counts as none. -/
def State.armModifier (s : State) (m : Addr) : State :=
  if m = 0 then s.setModPending false else (s.putM 0o20 m).setModPending true

/-- The stop code of a cycle whose instruction did not raise (R150 step 6, R330): the instruction's own, or `RunawayPC`
when the increment wrapped and no transfer overwrote it (R153). -/
def Flow.stopCode (f : Flow) (wrapped : Bool) : Option StopCode :=
  match f.stop with
  | some c => some c
  | none => if wrapped && !f.jumped then some .runawayPC else none

/-- The end of a cycle whose instruction completed: R159, then `in_dispatch <- 0`, then the stop code if there is one
(R150 steps 5 and 6). -/
def State.completeCycle (s : State) (wrapped : Bool) (f : Flow) : State :=
  let t := { s.armModifier f.nextMod with inDispatch := false }
  match f.stopCode wrapped with
  | some c => t.stopWith c
  | none => t

/-- The end of a cycle whose instruction did not raise. One that stops with `Unimplemented` has not completed: "no state
other than the PC/half advance changes" (93_implementation_defined.md S2, R282), so the pending modifier and
`in_dispatch` stay; what `stop` leaves is read from R159 and R150 (notes/assumptions/12.md). -/
def State.endCycle (s : State) (wrapped : Bool) (f : Flow) : State :=
  if f.stop = some .unimplemented then s.stopWith .unimplemented else s.completeCycle wrapped f

/-- What a stuck part of the cycle answers. -/
def Stuck.answer : Stuck → Answer
  | .fault r => .fault r
  | .refusal r => .refused r

/-- The answer of a cycle from how its instruction ended: completed, or raised and handled (R310). -/
def finish (wrapped : Bool) (r : Res Flow) : Answer :=
  match r with
  | .ok f s => .next (s.endCycle wrapped f)
  | .raise c s => .next (s.takeCause c)
  | .stuck x => x.answer

/-- One half-instruction from its decoding on (R153 to R160): the advance, the pending modifier on the address field
(R154), the instruction's own part `body`, the end of the cycle. In `body` PC and `RUU.RIGHT` already denote the
following half. -/
def runHalf (addr : Addr) (s : State) (body : Addr → State → Res Flow) : Answer :=
  match advance s with
  | .ok wrapped t => finish wrapped (body (t.modified addr) t)
  | .raise c t => .next (t.takeCause c)
  | .stuck x => x.answer

/-- `nextpc = ADDR(PC + 1)` of the half-instruction at `s.pc`, whichever half it is: the link of `vjm` and of the
extracodes (R153). -/
def State.nextPc (s : State) : Addr := s.pc + 1

/-- An instruction that user mode may not execute: `IllegalInsn` there, before anything else (R108 (a), R314). -/
def supervisorOnly (s : State) (r : Res Flow) : Res Flow := if s.sup then r else .raise .illegalInsn s

end Sys2Proof.Machine
end

