-- ==== Sys2Proof/Machine/Branch.lean ====
section
/-!
DEFINITION. The branches, jumps, the loop and the extracodes, opcodes 0o260 to 0o310, 0o340 to 0o370, 0o050 to 0o077, 0o200, 0o210
(45_control_transfer_extracode.md).
-/
namespace Sys2Proof.Machine

/-- A conditional transfer (R158): `pc <- target` where `taken`, else fall through. -/
def branch (taken : Bool) (target : Addr) (s : State) : Res Flow :=
  if taken then .ok .jump (s.jump target) else .ok .seq s

/-- The extracode `nn` (R262): the argument is the executive address, the link the next word. -/
def extracode (nn : Nat) (reg : BitVec 4) (addr : Addr) (s : State) : Answer :=
  runHalf addr s fun a t => .ok .jump (t.enterExtracode (extracodeEntry nn) (t.execAddr reg a) s.nextPc)

/-- `uza` (R250): RMR gets ACC; branch if `omega` is false. -/
def execUza (reg : BitVec 4) (addr : Addr) (s : State) : Answer :=
  runHalf addr s fun a t =>
    branch (!omegaCond t.rau t.acc) (t.execAddr reg a) { t with rmr := t.acc }

/-- `u1a` (R251): RMR gets ACC; branch if `omega` is true. -/
def execU1a (reg : BitVec 4) (addr : Addr) (s : State) : Answer :=
  runHalf addr s fun a t =>
    branch (omegaCond t.rau t.acc) (t.execAddr reg a) { t with rmr := t.acc }

/-- `uj` (R252): jump. -/
def execUj (reg : BitVec 4) (addr : Addr) (s : State) : Answer :=
  runHalf addr s fun a t => .ok .jump (t.jump (t.execAddr reg a))

/-- `vjm` (R253): `M[reg]` gets the address of the next word; jump. -/
def execVjm (reg : BitVec 4) (addr : Addr) (s : State) : Answer :=
  runHalf addr s fun a t => .ok .jump ((t.putM reg.toNat s.nextPc).jump a)

/-- `vzm` (R254): branch if `M[reg]` is 0. -/
def execVzm (reg : BitVec 4) (addr : Addr) (s : State) : Answer :=
  runHalf addr s fun a t => branch (t.getM reg.toNat == 0) a t

/-- `v1m` (R255): branch if `M[reg]` is not 0. -/
def execV1m (reg : BitVec 4) (addr : Addr) (s : State) : Answer :=
  runHalf addr s fun a t => branch (t.getM reg.toNat != 0) a t

/-- `*36` (R256): identical to `vzm`. -/
def execOp36 (reg : BitVec 4) (addr : Addr) (s : State) : Answer :=
  runHalf addr s fun a t => branch (t.getM reg.toNat == 0) a t

/-- `vlm` (R257): where `M[reg]` is not 0, increment it and branch. -/
def execVlm (reg : BitVec 4) (addr : Addr) (s : State) : Answer :=
  runHalf addr s fun a t =>
    if t.getM reg.toNat = 0 then .ok .seq t
    else .ok .jump ((t.putM reg.toNat (t.getM reg.toNat + 1)).jump a)

/-- Extracode `*50` (R262): entry 0o550. -/
def execEx50 (reg : BitVec 4) (addr : Addr) (s : State) : Answer :=
  extracode 0o50 reg addr s

/-- Extracode `*51` (R262): entry 0o551. -/
def execEx51 (reg : BitVec 4) (addr : Addr) (s : State) : Answer :=
  extracode 0o51 reg addr s

/-- Extracode `*52` (R262): entry 0o552. -/
def execEx52 (reg : BitVec 4) (addr : Addr) (s : State) : Answer :=
  extracode 0o52 reg addr s

/-- Extracode `*53` (R262): entry 0o553. -/
def execEx53 (reg : BitVec 4) (addr : Addr) (s : State) : Answer :=
  extracode 0o53 reg addr s

/-- Extracode `*54` (R262): entry 0o554. -/
def execEx54 (reg : BitVec 4) (addr : Addr) (s : State) : Answer :=
  extracode 0o54 reg addr s

/-- Extracode `*55` (R262): entry 0o555. -/
def execEx55 (reg : BitVec 4) (addr : Addr) (s : State) : Answer :=
  extracode 0o55 reg addr s

/-- Extracode `*56` (R262): entry 0o556. -/
def execEx56 (reg : BitVec 4) (addr : Addr) (s : State) : Answer :=
  extracode 0o56 reg addr s

/-- Extracode `*57` (R262): entry 0o557. -/
def execEx57 (reg : BitVec 4) (addr : Addr) (s : State) : Answer :=
  extracode 0o57 reg addr s

/-- Extracode `*60` (R262): entry 0o560. -/
def execEx60 (reg : BitVec 4) (addr : Addr) (s : State) : Answer :=
  extracode 0o60 reg addr s

/-- Extracode `*61` (R262): entry 0o561. -/
def execEx61 (reg : BitVec 4) (addr : Addr) (s : State) : Answer :=
  extracode 0o61 reg addr s

/-- Extracode `*62` (R262): entry 0o562. -/
def execEx62 (reg : BitVec 4) (addr : Addr) (s : State) : Answer :=
  extracode 0o62 reg addr s

/-- Extracode `*63` (R262): entry 0o563. -/
def execEx63 (reg : BitVec 4) (addr : Addr) (s : State) : Answer :=
  extracode 0o63 reg addr s

/-- Extracode `*64` (R262): entry 0o564. -/
def execEx64 (reg : BitVec 4) (addr : Addr) (s : State) : Answer :=
  extracode 0o64 reg addr s

/-- Extracode `*65` (R262): entry 0o565. -/
def execEx65 (reg : BitVec 4) (addr : Addr) (s : State) : Answer :=
  extracode 0o65 reg addr s

/-- Extracode `*66` (R262): entry 0o566. -/
def execEx66 (reg : BitVec 4) (addr : Addr) (s : State) : Answer :=
  extracode 0o66 reg addr s

/-- Extracode `*67` (R262): entry 0o567. -/
def execEx67 (reg : BitVec 4) (addr : Addr) (s : State) : Answer :=
  extracode 0o67 reg addr s

/-- Extracode `*70` (R262): entry 0o570. -/
def execEx70 (reg : BitVec 4) (addr : Addr) (s : State) : Answer :=
  extracode 0o70 reg addr s

/-- Extracode `*71` (R262): entry 0o571. -/
def execEx71 (reg : BitVec 4) (addr : Addr) (s : State) : Answer :=
  extracode 0o71 reg addr s

/-- Extracode `*72` (R262): entry 0o572. -/
def execEx72 (reg : BitVec 4) (addr : Addr) (s : State) : Answer :=
  extracode 0o72 reg addr s

/-- Extracode `*73` (R262): entry 0o573. -/
def execEx73 (reg : BitVec 4) (addr : Addr) (s : State) : Answer :=
  extracode 0o73 reg addr s

/-- Extracode `*74` (R262): entry 0o574. -/
def execEx74 (reg : BitVec 4) (addr : Addr) (s : State) : Answer :=
  extracode 0o74 reg addr s

/-- Extracode `*75` (R262): entry 0o575. -/
def execEx75 (reg : BitVec 4) (addr : Addr) (s : State) : Answer :=
  extracode 0o75 reg addr s

/-- Extracode `*76` (R262): entry 0o576. -/
def execEx76 (reg : BitVec 4) (addr : Addr) (s : State) : Answer :=
  extracode 0o76 reg addr s

/-- Extracode `*77` (R262): entry 0o577. -/
def execEx77 (reg : BitVec 4) (addr : Addr) (s : State) : Answer :=
  extracode 0o77 reg addr s

/-- Extracode `*20` (R262): entry 0o560. -/
def execEx20 (reg : BitVec 4) (addr : Addr) (s : State) : Answer :=
  extracode 0o200 reg addr s

/-- Extracode `*21` (R262): entry 0o561. -/
def execEx21 (reg : BitVec 4) (addr : Addr) (s : State) : Answer :=
  extracode 0o210 reg addr s

end Sys2Proof.Machine
end

