-- ==== Sys2Proof/Machine/Index.lean ====
section
/-!
DEFINITION. The index-register and address-modifier instructions, opcodes 0o040 to 0o047 and 0o220 to 0o250
(44_index_register_instructions.md).
-/
namespace Sys2Proof.Machine

/-- `ati` (R230): the low 15 bits of ACC to the register the address names. -/
def execAti (reg : BitVec 4) (addr : Addr) (s : State) : Answer :=
  runHalf addr s fun a t => .ok .seq (t.putM (t.sel (t.execAddr reg a)) (t.acc.setWidth 15))

/-- `sti` (R231): ACC to an index register, then pop the stack into ACC; with the stack pointer as the target, load from its
new value instead. -/
def execSti (reg : BitVec 4) (addr : Addr) (s : State) : Answer :=
  runHalf addr s fun a t =>
    let rg := t.sel (t.execAddr reg a)
    let ad : Addr := t.acc.setWidth 15
    let last := fun (x : Word) (u : State) => (.ok .seq ({ u with acc := x }.putM rg ad).setLogical : Res Flow)
    if rg = 0o17 then (memRead ad t).andThen last else withPop t last

/-- `ita` (R232): the register the address names to ACC, zero-extended. -/
def execIta (reg : BitVec 4) (addr : Addr) (s : State) : Answer :=
  runHalf addr s fun a t =>
    withReadM (t.sel (t.execAddr reg a)) t fun v u => .ok .seq { u with acc := v.setWidth 48 }.setLogical

/-- `its` (R233): push ACC, then as `ita`; the address and the register read see the incremented stack pointer. -/
def execIts (reg : BitVec 4) (addr : Addr) (s : State) : Answer :=
  runHalf addr s fun a t =>
    (pushAcc t).andThen fun _ u =>
      withReadM (u.sel (u.execAddr reg a)) u fun v w => .ok .seq { w with acc := v.setWidth 48 }.setLogical

/-- `mtj` (R234): copy `M[reg]` to the register the address names. -/
def execMtj (reg : BitVec 4) (addr : Addr) (s : State) : Answer :=
  runHalf addr s fun a t => .ok .seq (t.putM (t.sel a) (t.getM reg.toNat))

/-- `j+m` (R235): add `M[reg]` to `M[addr[3:0]]`; in supervisor mode with `addr[4] = 1` a copy, as `mtj`. -/
def execJPlusM (reg : BitVec 4) (addr : Addr) (s : State) : Answer :=
  runHalf addr s fun a t =>
    if t.sup && a.getLsbD 4 then .ok .seq (t.putM (t.sel a) (t.getM reg.toNat))
    else
      let j := (a.extractLsb' 0 4).toNat
      .ok .seq (t.putM j (t.getM j + t.getM reg.toNat))

/-- `*46` (R236), supervisor only: the register named by `addr[3:0]` gets the whole address. -/
def execOp46 (_reg : BitVec 4) (addr : Addr) (s : State) : Answer :=
  runHalf addr s fun a t => supervisorOnly t (.ok .seq (t.putM (a.extractLsb' 0 4).toNat a))

/-- `*47` (R237), supervisor only: the register named by `addr[3:0]` plus the whole address. -/
def execOp47 (_reg : BitVec 4) (addr : Addr) (s : State) : Answer :=
  runHalf addr s fun a t =>
    let j := (a.extractLsb' 0 4).toNat
    supervisorOnly t (.ok .seq (t.putM j (t.getM j + a)))

/-- `utc` (R240): the executive address becomes the modifier of the next half-instruction. -/
def execUtc (reg : BitVec 4) (addr : Addr) (s : State) : Answer :=
  runHalf addr s fun a t => .ok (.modify (t.execAddr reg a)) t

/-- `wtc` (R241): the low 15 bits of the operand become the modifier of the next half-instruction. -/
def execWtc (reg : BitVec 4) (addr : Addr) (s : State) : Answer :=
  runHalf addr s fun a t => withOperand reg a t fun x u => .ok (.modify (x.setWidth 15)) u

/-- `vtm` (R242): the address to `M[reg]`; with `reg = 0` in supervisor mode, three bits of PSW from the address. -/
def execVtm (reg : BitVec 4) (addr : Addr) (s : State) : Answer :=
  runHalf addr s fun a t => .ok .seq ((t.putM reg.toNat a).loadPswBits reg a)

/-- `utm` (R243): add the address to `M[reg]`; with `reg = 0` in supervisor mode, three bits of PSW from the address. -/
def execUtm (reg : BitVec 4) (addr : Addr) (s : State) : Answer :=
  runHalf addr s fun a t => .ok .seq ((t.putM reg.toNat (t.execAddr reg a)).loadPswBits reg a)

end Sys2Proof.Machine
end

