-- ==== Sys2Proof/Machine/Arith.lean ====
section
/-!
DEFINITION. The memory, arithmetic and logical instructions, opcodes 0o000 to 0o017 but for `mod` (42_memory_arithmetic_instructions.md).
-/
namespace Sys2Proof.Machine

/-- An instruction that begins with `X <- LoadOperand()` (R172): `rest` is what it does with `X`. -/
def runOperand (reg : BitVec 4) (addr : Addr) (s : State) (rest : Word → State → Res Flow) : Answer :=
  runHalf addr s fun a t => withOperand reg a t rest

/-- The end of an instruction after an arithmetic operation: the result, then, unless it raises, the class (R172). -/
def arithEnd (r : Alu.Out) (setter : State → State) (s : State) : Res Flow :=
  writeAlu r s fun t => .ok .seq (setter t)

/-- `atx` (R170): store ACC; in the push form increment the stack pointer after the store. -/
def execAtx (reg : BitVec 4) (addr : Addr) (s : State) : Answer :=
  runHalf addr s fun a t =>
    (memWrite (t.execAddr reg a) t.acc t).andThen fun _ u => .ok .seq (u.pushed reg a)

/-- `stx` (R171): store ACC, then pop the stack into ACC. -/
def execStx (reg : BitVec 4) (addr : Addr) (s : State) : Answer :=
  runHalf addr s fun a t =>
    (memWrite (t.execAddr reg a) t.acc t).andThen fun _ u =>
      withPop u fun x v => .ok .seq { v with acc := x }.setLogical

/-- `xts` (R173): push ACC, then load ACC; the address sees the incremented stack pointer, and the load runs with
`corr_stack = -1`. -/
def execXts (reg : BitVec 4) (addr : Addr) (s : State) : Answer :=
  runHalf addr s fun a t =>
    (pushAcc t).andThen fun _ u =>
      ((loadAt reg a u).andThen fun x v => .ok .seq { v with acc := x }.setLogical).undoing (-1)

/-- `xta` (R178): load ACC. -/
def execXta (reg : BitVec 4) (addr : Addr) (s : State) : Answer :=
  runOperand reg addr s fun x t => .ok .seq { t with acc := x }.setLogical

/-- `a+x`: floating add (R174). -/
def execAPlusX (reg : BitVec 4) (addr : Addr) (s : State) : Answer :=
  runOperand reg addr s fun x t => arithEnd (Alu.add t.rau t.acc t.rmr x false false) State.setAdditive t

/-- `a-x`: floating subtract, ACC - X (R175). -/
def execAMinusX (reg : BitVec 4) (addr : Addr) (s : State) : Answer :=
  runOperand reg addr s fun x t => arithEnd (Alu.add t.rau t.acc t.rmr x false true) State.setAdditive t

/-- `x-a`: reverse subtract, X - ACC (R176). -/
def execXMinusA (reg : BitVec 4) (addr : Addr) (s : State) : Answer :=
  runOperand reg addr s fun x t => arithEnd (Alu.add t.rau t.acc t.rmr x true false) State.setAdditive t

/-- `amx`: subtract magnitudes, |ACC| - |X| (R177). -/
def execAmx (reg : BitVec 4) (addr : Addr) (s : State) : Answer :=
  runOperand reg addr s fun x t => arithEnd (Alu.add t.rau t.acc t.rmr x true true) State.setAdditive t

/-- `aax` (R179): AND; RMR is cleared. -/
def execAax (reg : BitVec 4) (addr : Addr) (s : State) : Answer :=
  runOperand reg addr s fun x t => .ok .seq { t with acc := t.acc &&& x, rmr := 0 }.setLogical

/-- `aex` (R180): exclusive OR; RMR gets the old ACC. -/
def execAex (reg : BitVec 4) (addr : Addr) (s : State) : Answer :=
  runOperand reg addr s fun x t => .ok .seq { t with acc := t.acc ^^^ x, rmr := t.acc }.setLogical

/-- `arx` (R181): cyclic add; RMR is cleared. -/
def execArx (reg : BitVec 4) (addr : Addr) (s : State) : Answer :=
  runOperand reg addr s fun x t => .ok .seq { t with acc := Alu.cyclicAdd t.acc x, rmr := 0 }.setMultiplicative

/-- `avx` (R182): change the sign of ACC when the operand is negative (`X[40]`). -/
def execAvx (reg : BitVec 4) (addr : Addr) (s : State) : Answer :=
  runOperand reg addr s fun x t => arithEnd (Alu.changeSign t.rau t.acc (x.getLsbD 40)) State.setAdditive t

/-- `aox` (R183): OR; RMR is cleared. -/
def execAox (reg : BitVec 4) (addr : Addr) (s : State) : Answer :=
  runOperand reg addr s fun x t => .ok .seq { t with acc := t.acc ||| x, rmr := 0 }.setLogical

/-- `a/x` (R184, R131): floating divide; a divisor that is not normalized raises `DivZero` before anything is written. -/
def execADivX (reg : BitVec 4) (addr : Addr) (s : State) : Answer :=
  runOperand reg addr s fun x t =>
    if Alu.denormalized x then .raise .divZero t
    else arithEnd (Alu.divide t.rau t.acc t.rmr x) State.setMultiplicative t

/-- `a*x` (R185): floating multiply. -/
def execAMulX (reg : BitVec 4) (addr : Addr) (s : State) : Answer :=
  runOperand reg addr s fun x t => arithEnd (Alu.multiply t.rau t.acc t.rmr x) State.setMultiplicative t

end Sys2Proof.Machine
end

