-- ==== Sys2Proof/Machine/Logic.lean ====
section
/-!
DEFINITION. The pack, count, exponent, shift and mode-register instructions, opcodes 0o020 to 0o031 and 0o034 to 0o037
(43_logical_shift_mode_instructions.md).
-/
namespace Sys2Proof.Machine

/-- A count or exponent constant taken from seven bits of the address: `Aex[6:0] - 64` (R105, R218, R220). -/
def smallConst (aex : Addr) : Int := (aex.extractLsb' 0 7).toNat - 64

/-- A count taken from the exponent field of an operand: `X[47:41] - 64` (R204, R206). -/
def operandConst (x : Word) : Int := (Alu.exponent x).toNat - 64

/-- `Shift(n)` on ACC and RMR (R134). -/
def State.shifted (s : State) (n : Int) : State := { s with acc := (Alu.shift n s.acc).1, rmr := (Alu.shift n s.acc).2 }

/-- `apx` (R200): pack ACC by the operand as a mask; RMR is cleared. -/
def execApx (reg : BitVec 4) (addr : Addr) (s : State) : Answer :=
  runOperand reg addr s fun x t => .ok .seq { t with acc := Alu.gather t.acc x, rmr := 0 }.setLogical

/-- `aux` (R201): unpack ACC by the operand as a mask; RMR is cleared. -/
def execAux (reg : BitVec 4) (addr : Addr) (s : State) : Answer :=
  runOperand reg addr s fun x t => .ok .seq { t with acc := Alu.scatter t.acc x, rmr := 0 }.setLogical

/-- `acx` (R202): count the ones of ACC and add the operand cyclically; RMR is unchanged. -/
def execAcx (reg : BitVec 4) (addr : Addr) (s : State) : Answer :=
  runOperand reg addr s fun x t =>
    .ok .seq { t with acc := Alu.cyclicAdd (BitVec.ofNat 48 (Alu.countOnes t.acc)) x }.setLogical

/-- `anx` (R203): the number of the highest one of ACC, added cyclically to the operand; RMR gets the bits below it. -/
def execAnx (reg : BitVec 4) (addr : Addr) (s : State) : Answer :=
  runOperand reg addr s fun x t =>
    if t.acc = 0 then .ok .seq { t with acc := x, rmr := 0 }.setLogical
    else
      let n := Alu.highestBit t.acc
      .ok .seq { t.shifted (48 - n) with acc := Alu.cyclicAdd (BitVec.ofNat 48 n) x }.setLogical

/-- `e+x` (R204): add the operand exponent. -/
def execEPlusX (reg : BitVec 4) (addr : Addr) (s : State) : Answer :=
  runOperand reg addr s fun x t => arithEnd (Alu.addExponent t.rau t.acc (operandConst x)) State.setMultiplicative t

/-- `e-x` (R205): subtract the operand exponent. -/
def execEMinusX (reg : BitVec 4) (addr : Addr) (s : State) : Answer :=
  runOperand reg addr s fun x t => arithEnd (Alu.addExponent t.rau t.acc (-operandConst x)) State.setMultiplicative t

/-- `asx` (R206): shift by the operand exponent, right for a positive count. -/
def execAsx (reg : BitVec 4) (addr : Addr) (s : State) : Answer :=
  runOperand reg addr s fun x t => .ok .seq (t.shifted (operandConst x)).setLogical

/-- `xtr` (R214): all six bits of RAU from `X[46:41]`. -/
def execXtr (reg : BitVec 4) (addr : Addr) (s : State) : Answer :=
  runOperand reg addr s fun x t => .ok .seq { t with rau := x.extractLsb' 41 6 }

/-- `rte` (R215): the old RAU, masked by `Aex[5:0]`, into the exponent field of ACC, whose other bits become 0. -/
def execRte (reg : BitVec 4) (addr : Addr) (s : State) : Answer :=
  runHalf addr s fun a t =>
    .ok .seq { t with acc := 0#1 ++ (t.rau &&& (t.execAddr reg a).extractLsb' 0 6) ++ 0#41 }.setLogical

/-- `yta` (R216): with the logical class ACC gets RMR; otherwise ACC gets the low 40 bits of RMR as a mantissa under its own
exponent, moved by the constant and normalized, and RMR is restored unless that raises. RAU is unchanged. -/
def execYta (reg : BitVec 4) (addr : Addr) (s : State) : Answer :=
  runHalf addr s fun a t =>
    if isLogical t.rau then .ok .seq { t with acc := t.rmr }
    else
      let joined : Word := Alu.exponent t.acc ++ 0#1 ++ t.rmr.extractLsb' 0 40
      writeAlu (Alu.addExponent t.rau joined (smallConst (t.execAddr reg a))) t fun u => .ok .seq { u with rmr := t.rmr }

/-- `e+n` (R218): add a constant to the exponent. -/
def execEPlusN (reg : BitVec 4) (addr : Addr) (s : State) : Answer :=
  runHalf addr s fun a t =>
    arithEnd (Alu.addExponent t.rau t.acc (smallConst (t.execAddr reg a))) State.setMultiplicative t

/-- `e-n` (R219): subtract a constant from the exponent. -/
def execEMinusN (reg : BitVec 4) (addr : Addr) (s : State) : Answer :=
  runHalf addr s fun a t =>
    arithEnd (Alu.addExponent t.rau t.acc (-smallConst (t.execAddr reg a))) State.setMultiplicative t

/-- `asn` (R220): shift by a constant, right for a positive count. -/
def execAsn (reg : BitVec 4) (addr : Addr) (s : State) : Answer :=
  runHalf addr s fun a t => .ok .seq (t.shifted (smallConst (t.execAddr reg a))).setLogical

/-- `ntr` (R222): all six bits of RAU from `Aex[5:0]`. -/
def execNtr (reg : BitVec 4) (addr : Addr) (s : State) : Answer :=
  runHalf addr s fun a t => .ok .seq { t with rau := (t.execAddr reg a).extractLsb' 0 6 }

end Sys2Proof.Machine
end

