-- ==== Sys2Proof/Machine/Supervisor.lean ====
section
/-!
DEFINITION. The supervisor instructions: special register access, the always-illegal opcode, the I/O ports, the return and the halt
(46_supervisor_instructions.md).
-/
namespace Sys2Proof.Machine

/-- The slot, page register or port number in the low three bits of a `mod` function (R270). -/
def modIndex (f : BitVec 8) : Fin 8 := ⟨(f.extractLsb' 0 3).toNat, (f.extractLsb' 0 3).isLt⟩

/-- The control bits of RUU written by functions 0o100 .. 0o137 (R281). -/
def State.setControl (s : State) (f : BitVec 8) : State :=
  { s with ruu := setBit (setBit (setBit s.ruu 5 (f.getLsbD 0)) 0 (f.getLsbD 1)) 1 (f.getLsbD 2) }

/-- The write functions of `mod`, `f = 0o000 .. 0o177`, by the table of R270 (R271, R272, R273, R280, R281); an address
that selects nothing changes nothing. -/
def State.modWrite (s : State) (f : BitVec 8) : State :=
  let n := f.toNat
  if n ≤ 0o007 then s.setCacheSlot (modIndex f) s.acc
  else if n ≤ 0o017 then s
  else if n ≤ 0o027 then s.setPageRegister (modIndex f) s.acc
  else if n ≤ 0o033 then s.setProtection (f.extractLsb' 0 2) s.acc
  else if n = 0o036 then { s with mgrp := s.acc }
  else if n = 0o037 then { s with grp := s.grp &&& (s.acc ||| s.cfg.grpWired) }
  else if n < 0o100 then s
  else s.setControl f

/-- The read functions of `mod`, `f = 0o200 .. 0o377` (R274); an address that selects nothing changes nothing. -/
def State.modRead (s : State) (f : BitVec 8) : State :=
  if f.toNat ≤ 0o207 then { s with acc := s.getCacheSlot (modIndex f) }
  else if f.toNat = 0o237 then { s with acc := s.grp }
  else s

/-- The function of `mod` selected by `f` (R270): 0o140 .. 0o177 stop the run (R282), the upper half ends in `setLogical`. -/
def modFunction (f : BitVec 8) (s : State) : Res Flow :=
  if f.getLsbD 7 then .ok .seq (s.modRead f).setLogical
  else if 0o140 ≤ f.toNat then .ok (.halt .unimplemented) s
  else .ok .seq (s.modWrite f)

/-- `mod` (R270), supervisor only: the special register access selected by `Aex[7:0]`. -/
def execMod (reg : BitVec 4) (addr : Addr) (s : State) : Answer :=
  runHalf addr s fun a t => supervisorOnly t (modFunction ((t.execAddr reg a).extractLsb' 0 8) t)

/-- `*32` (R275): `IllegalInsn` in every mode. -/
def execOp32 (_reg : BitVec 4) (addr : Addr) (s : State) : Answer :=
  runHalf addr s fun _ t => .raise .illegalInsn t

/-- `ioRead(port)`: what the host supplies for the port; a port with no device reads 0 (R276). -/
def State.ioRead (s : State) (port : Addr) : Word := ((s.host.ioIn.find? fun e => e.1 == port).map (·.2)).getD 0

/-- A write of ACC to a port (R276, R277): PRP and MPRP, or an output event. -/
def State.portWrite (s : State) (port : Addr) : State :=
  if port = 0o0030 then { s with prp := s.prp &&& (s.acc.setWidth 24 ||| s.cfg.prpWired) }
  else if port = 0o0034 then { s with mprp := s.acc.setWidth 24 }
  else { s with ioOut := s.ioOut ++ [{ port := port, value := s.acc }] }

/-- A read of a port into ACC (R276, R277): the two halves of PRP, or the host's value. -/
def State.portRead (s : State) (port : Addr) : State :=
  if port = 0o4030 then { s with acc := (s.prp &&& 0o77770000).setWidth 48 }
  else if port = 0o4034 then { s with acc := ((s.prp &&& 0o7777) ||| 0o377).setWidth 48 }
  else { s with acc := s.ioRead port }

/-- `ext` (R276), supervisor only: I/O port access; `Aex[11]` selects a read. -/
def execExt (reg : BitVec 4) (addr : Addr) (s : State) : Answer :=
  runHalf addr s fun a t => supervisorOnly t <|
    let aex := t.execAddr reg a
    let port := aex &&& 0o4177
    if aex.getLsbD 11 then .ok .seq (t.portRead port).setLogical else .ok .seq (t.portWrite port)

/-- `ij` (R278), supervisor only: return from a trap or an extracode, re-arming the saved pending modifier. -/
def execIj (reg : BitVec 4) (addr : Addr) (s : State) : Answer :=
  runHalf addr s fun _ t => supervisorOnly t <|
    .ok { Flow.jump with nextMod := if t.spsw.getLsbD 4 then t.getM 0o20 else 0 } (t.returnFrom reg)

/-- `stop` (R279): halt in supervisor mode; in user mode a no-operation while `PSW.CHECK_HALT = 1`, else extracode 0o63. -/
def execStop (reg : BitVec 4) (addr : Addr) (s : State) : Answer :=
  runHalf addr s fun a t =>
    if t.sup then .ok (.halt .halt) t
    else if t.checkHalt then .ok .seq t
    else .ok .jump (t.enterExtracode (extracodeEntry 0o63) (t.execAddr reg a) s.nextPc)

end Sys2Proof.Machine
end

