-- ==== Sys2Proof/Machine/Dispatch.lean ====
section
/-!
DEFINITION. The dispatcher: one arm for each instruction (41_engine_cycle.md R156). `exec i s` executes the fetched and
decoded half-instruction `i` at `s`, where PC and `RUU.RIGHT` still denote `i` itself.
-/
namespace Sys2Proof.Machine

def exec (i : Instr) (s : State) : Host.Outcome State Fault Refusal :=
  match i with
  | .atx reg addr => Sys2Proof.Machine.execAtx reg addr s
  | .stx reg addr => Sys2Proof.Machine.execStx reg addr s
  | .mod reg addr => Sys2Proof.Machine.execMod reg addr s
  | .xts reg addr => Sys2Proof.Machine.execXts reg addr s
  | .aPlusX reg addr => Sys2Proof.Machine.execAPlusX reg addr s
  | .aMinusX reg addr => Sys2Proof.Machine.execAMinusX reg addr s
  | .xMinusA reg addr => Sys2Proof.Machine.execXMinusA reg addr s
  | .amx reg addr => Sys2Proof.Machine.execAmx reg addr s
  | .xta reg addr => Sys2Proof.Machine.execXta reg addr s
  | .aax reg addr => Sys2Proof.Machine.execAax reg addr s
  | .aex reg addr => Sys2Proof.Machine.execAex reg addr s
  | .arx reg addr => Sys2Proof.Machine.execArx reg addr s
  | .avx reg addr => Sys2Proof.Machine.execAvx reg addr s
  | .aox reg addr => Sys2Proof.Machine.execAox reg addr s
  | .aDivX reg addr => Sys2Proof.Machine.execADivX reg addr s
  | .aMulX reg addr => Sys2Proof.Machine.execAMulX reg addr s
  | .apx reg addr => Sys2Proof.Machine.execApx reg addr s
  | .aux reg addr => Sys2Proof.Machine.execAux reg addr s
  | .acx reg addr => Sys2Proof.Machine.execAcx reg addr s
  | .anx reg addr => Sys2Proof.Machine.execAnx reg addr s
  | .ePlusX reg addr => Sys2Proof.Machine.execEPlusX reg addr s
  | .eMinusX reg addr => Sys2Proof.Machine.execEMinusX reg addr s
  | .asx reg addr => Sys2Proof.Machine.execAsx reg addr s
  | .xtr reg addr => Sys2Proof.Machine.execXtr reg addr s
  | .rte reg addr => Sys2Proof.Machine.execRte reg addr s
  | .yta reg addr => Sys2Proof.Machine.execYta reg addr s
  | .op32 reg addr => Sys2Proof.Machine.execOp32 reg addr s
  | .ext reg addr => Sys2Proof.Machine.execExt reg addr s
  | .ePlusN reg addr => Sys2Proof.Machine.execEPlusN reg addr s
  | .eMinusN reg addr => Sys2Proof.Machine.execEMinusN reg addr s
  | .asn reg addr => Sys2Proof.Machine.execAsn reg addr s
  | .ntr reg addr => Sys2Proof.Machine.execNtr reg addr s
  | .ati reg addr => Sys2Proof.Machine.execAti reg addr s
  | .sti reg addr => Sys2Proof.Machine.execSti reg addr s
  | .ita reg addr => Sys2Proof.Machine.execIta reg addr s
  | .its reg addr => Sys2Proof.Machine.execIts reg addr s
  | .mtj reg addr => Sys2Proof.Machine.execMtj reg addr s
  | .jPlusM reg addr => Sys2Proof.Machine.execJPlusM reg addr s
  | .op46 reg addr => Sys2Proof.Machine.execOp46 reg addr s
  | .op47 reg addr => Sys2Proof.Machine.execOp47 reg addr s
  | .ex50 reg addr => Sys2Proof.Machine.execEx50 reg addr s
  | .ex51 reg addr => Sys2Proof.Machine.execEx51 reg addr s
  | .ex52 reg addr => Sys2Proof.Machine.execEx52 reg addr s
  | .ex53 reg addr => Sys2Proof.Machine.execEx53 reg addr s
  | .ex54 reg addr => Sys2Proof.Machine.execEx54 reg addr s
  | .ex55 reg addr => Sys2Proof.Machine.execEx55 reg addr s
  | .ex56 reg addr => Sys2Proof.Machine.execEx56 reg addr s
  | .ex57 reg addr => Sys2Proof.Machine.execEx57 reg addr s
  | .ex60 reg addr => Sys2Proof.Machine.execEx60 reg addr s
  | .ex61 reg addr => Sys2Proof.Machine.execEx61 reg addr s
  | .ex62 reg addr => Sys2Proof.Machine.execEx62 reg addr s
  | .ex63 reg addr => Sys2Proof.Machine.execEx63 reg addr s
  | .ex64 reg addr => Sys2Proof.Machine.execEx64 reg addr s
  | .ex65 reg addr => Sys2Proof.Machine.execEx65 reg addr s
  | .ex66 reg addr => Sys2Proof.Machine.execEx66 reg addr s
  | .ex67 reg addr => Sys2Proof.Machine.execEx67 reg addr s
  | .ex70 reg addr => Sys2Proof.Machine.execEx70 reg addr s
  | .ex71 reg addr => Sys2Proof.Machine.execEx71 reg addr s
  | .ex72 reg addr => Sys2Proof.Machine.execEx72 reg addr s
  | .ex73 reg addr => Sys2Proof.Machine.execEx73 reg addr s
  | .ex74 reg addr => Sys2Proof.Machine.execEx74 reg addr s
  | .ex75 reg addr => Sys2Proof.Machine.execEx75 reg addr s
  | .ex76 reg addr => Sys2Proof.Machine.execEx76 reg addr s
  | .ex77 reg addr => Sys2Proof.Machine.execEx77 reg addr s
  | .ex20 reg addr => Sys2Proof.Machine.execEx20 reg addr s
  | .ex21 reg addr => Sys2Proof.Machine.execEx21 reg addr s
  | .utc reg addr => Sys2Proof.Machine.execUtc reg addr s
  | .wtc reg addr => Sys2Proof.Machine.execWtc reg addr s
  | .vtm reg addr => Sys2Proof.Machine.execVtm reg addr s
  | .utm reg addr => Sys2Proof.Machine.execUtm reg addr s
  | .uza reg addr => Sys2Proof.Machine.execUza reg addr s
  | .u1a reg addr => Sys2Proof.Machine.execU1a reg addr s
  | .uj reg addr => Sys2Proof.Machine.execUj reg addr s
  | .vjm reg addr => Sys2Proof.Machine.execVjm reg addr s
  | .ij reg addr => Sys2Proof.Machine.execIj reg addr s
  | .stop reg addr => Sys2Proof.Machine.execStop reg addr s
  | .vzm reg addr => Sys2Proof.Machine.execVzm reg addr s
  | .v1m reg addr => Sys2Proof.Machine.execV1m reg addr s
  | .op36 reg addr => Sys2Proof.Machine.execOp36 reg addr s
  | .vlm reg addr => Sys2Proof.Machine.execVlm reg addr s

end Sys2Proof.Machine
end

