-- ==== Sys2Proof/Machine/Fetchword.lean ====
section
/-!
DEFINITION. Placing a half-instruction where the next cycle fetches: what a loader outside the machine does.
-/
namespace Sys2Proof.Machine

/-- A word with one half replaced and the instruction tag (R100, R151). -/
def State.withHalf (s : State) (w : TWord) (h : Half) : TWord :=
  ⟨TWord.instructionTag, if s.right then joinHalves (leftHalf w.data) h else joinHalves h (rightHalf w.data)⟩

/-- The word at physical address `p` as a fetch sees it, replaced: a console register below 8, else memory (R54, R75). -/
def State.putCode (s : State) (p : Nat) (w : TWord) : State :=
  if p < 8 then { s with host := { s.host with console := s.host.console.setIfInBounds p w.data } } else s.putWord p w

/-- `s` with the half-instruction `h` in the word that `Fetch(PC)` reads, tagged an instruction: in physical memory, and
in the prefetch slot if one already holds that fetch variant (R75, R78). The other half of the word stays. -/
def State.placeHalf (s : State) (h : Half) : State :=
  let fv := s.fetchVariant s.pc
  let p := s.phys fv
  match (if s.cfg.cacheEnable then s.prefetch.search fv else none) with
  | some k =>
    let w := s.withHalf s.prefetch.brs[k] h
    { s.putCode p w with prefetch := { s.prefetch with brs := s.prefetch.brs.set k w } }
  | none => s.putCode p (s.withHalf (s.codeWord p) h)

end Sys2Proof.Machine
end

