-- ==== Sys2Proof/Machine/Step.lean ====
section
/-!
DEFINITION. One step: the `run one cycle` of 41_engine_cycle.md R150, on a machine that runs.
-/
namespace Sys2Proof.Machine

/-- One cycle (R150). A machine whose run loop has returned a stop code waits for the host (R33, R340): a step leaves
it as it is, until a port of the host (Ports.lean) resumes it. -/
def step (s : State) : Host.Outcome State Fault Refusal :=
  if s.stopped.isSome then .next s
  else if s.atBreakpoint then .next (s.stopWith .breakpoint)
  else
    match fetchHalf s.beginCycle with
    | .ok h t => exec (decode h) t
    | .raise c t => .next (t.takeCause c)
    | .stuck x => x.answer

/-- `s` with the half-instruction of a row's table word where the next cycle fetches. -/
def State.withFetchWord (s : State) (nbits w : Nat) : State := s.placeHalf (tableHalf nbits w)

end Sys2Proof.Machine
end

