-- ==== Sys2Proof/Machine/Ports.lean ====
section
/-!
DEFINITION. The ports of the host and of the excluded peripherals (00_scope.md R5, 41_engine_cycle.md R161): what acts
between cycles (R84, R150), and the two requests to run. No step calls one. The reset port is `State.resetFrom`,
`flush_all` is `flushAll`; between cycles the host and the peripherals read any register as the field of State, and the
host writes any as an update of that field (R161).
-/
namespace Sys2Proof.Machine

/-! ### The interrupt registers -/

/-- A peripheral raises cause bits of GRP: it ORs them in (R5, R302). -/
def State.raiseGrp (s : State) (bits : BitVec 48) : State := { s with grp := s.grp ||| bits }

/-- A peripheral raises cause bits of PRP (R5, R277, R302). -/
def State.raisePrp (s : State) (bits : BitVec 24) : State := { s with prp := s.prp ||| bits }

/-- The condition behind wired bits of GRP goes away (R26, R302): only the peripheral lowers them. -/
def State.lowerWiredGrp (s : State) (bits : BitVec 48) : State := { s with grp := s.grp &&& ~~~(bits &&& s.cfg.grpWired) }

/-- The condition behind wired bits of PRP goes away (R26, R277). -/
def State.lowerWiredPrp (s : State) (bits : BitVec 24) : State := { s with prp := s.prp &&& ~~~(bits &&& s.cfg.prpWired) }

/-- A peripheral writes MGRP (R5 (1)). DEDUCED: the whole mask is replaced (notes/assumptions/26.md). -/
def State.writeMgrp (s : State) (mask : BitVec 48) : State := { s with mgrp := mask }

/-- A peripheral writes MPRP (R5 (1)). DEDUCED: the whole mask is replaced (notes/assumptions/26.md). -/
def State.writeMprp (s : State) (mask : BitVec 24) : State := { s with mprp := mask }

/-! ### Memory and the host's inputs -/

/-- A DMA read of the memory array, outside cache and translation (R50, R84). DESIGN CHOICE: at `MEM_WORDS` and above,
where the array has no word, it faults (notes/assumptions/15.md). DEDUCED: at 0 to 7 it reads the array's own word,
not the console register (notes/assumptions/25.md). -/
def State.dmaRead (s : State) (p : Nat) : Host.Outcome TWord Fault Refusal :=
  if p < s.cfg.memWords then .next (Memory.read s.mem p) else .fault (.noSuchAddress p)

/-- A DMA write of the memory array, outside cache and translation (R50, R84). DESIGN CHOICE: at `MEM_WORDS` and above it
faults (notes/assumptions/15.md). DEDUCED: at 0 to 7 it writes the array's own word, which the core never reads
(notes/assumptions/25.md). -/
def State.dmaWrite (s : State) (p : Nat) (w : TWord) : Answer :=
  if p < s.cfg.memWords then .next (s.putWord p w) else .fault (.noSuchAddress p)

/-- The host sets its inputs: the switches, its breakpoint and watch sets, the input ports (R6, R276). -/
def State.setHost (s : State) (h : HostInputs) : State := { s with host := h }

/-- The peripheral models consume the output events (R276). -/
def State.drainOutput (s : State) : State := { s with ioOut := [] }

/-! ### What the scheduler does between two cycles (R150) -/

/-- One thing the external scheduler may do between two cycles of a run: "run peripheral events, change `mem` by DMA, OR
bits into GRP and PRP, and change the host inputs" (R150, R302). -/
inductive PortAction where
  | raiseGrp (bits : BitVec 48)
  | raisePrp (bits : BitVec 24)
  | lowerWiredGrp (bits : BitVec 48)
  | lowerWiredPrp (bits : BitVec 24)
  | writeMgrp (mask : BitVec 48)
  | writeMprp (mask : BitVec 24)
  | dmaWrite (p : Nat) (w : TWord)
  | setHost (h : HostInputs)
  | drainOutput
deriving DecidableEq, Repr

/-- The effect of one action. -/
def State.act (s : State) (a : PortAction) : Answer :=
  match a with
  | .raiseGrp bits => .next (s.raiseGrp bits)
  | .raisePrp bits => .next (s.raisePrp bits)
  | .lowerWiredGrp bits => .next (s.lowerWiredGrp bits)
  | .lowerWiredPrp bits => .next (s.lowerWiredPrp bits)
  | .writeMgrp mask => .next (s.writeMgrp mask)
  | .writeMprp mask => .next (s.writeMprp mask)
  | .dmaWrite p w => s.dmaWrite p w
  | .setHost h => .next (s.setHost h)
  | .drainOutput => .next s.drainOutput

/-- The actions between two cycles, in order. -/
def actAll : List PortAction → State → Answer
  | [], s => .next s
  | a :: rest, s =>
    match s.act a with
    | .next t => actAll rest t
    | r => r

/-! ### The requests to run (R5 (3), R150, R161, R330) -/

/-- What a request to run does first (R330, R340): a stopped machine goes on from PC and `RUU.RIGHT`; after a `Breakpoint`
stop the coming cycle skips the breakpoint test once. -/
def State.resume (s : State) : State :=
  if s.stopped.isNone then s else { s with stopped := none, resuming := s.stopped == some .breakpoint }

/-- `run one cycle`: the stop code it returns is `stopped` of the next state, none for `None` (R330). -/
def runOneCycle (s : State) : Answer := step s.resume

/-- Cycles until one returns a stop code (R150), with what the scheduler does after each cycle. A schedule that ends
before a stop leaves the run where it is. -/
def runCycles : List (List PortAction) → State → Answer
  | [], s => .next s
  | actions :: rest, s =>
    match step s with
    | .next t =>
      if t.stopped.isSome then .next t
      else
        match actAll actions t with
        | .next u => runCycles rest u
        | r => r
    | r => r

/-- `run until stopped`, for as many cycles as the schedule is long (R150): the stop code it returns is `stopped` of the
state it answers. DESIGN CHOICE: a schedule bounds the run, since a run need not stop (notes/assumptions/27.md). -/
def runUntilStopped (schedule : List (List PortAction)) (s : State) : Answer := runCycles schedule s.resume

/-- `run until stopped` returns `code` in state `t`, the scheduler doing what some schedule says. A run that never stops is
one of which this holds for no code. -/
def RunStops (s t : State) (code : StopCode) : Prop :=
  ∃ schedule, runUntilStopped schedule s = .next t ∧ t.stopped = some code

end Sys2Proof.Machine
end

