-- ==== Sys2Proof/Safety.lean ====
section
/-!
DEFINITION. The terms the statements use: the invariant of the machine, how a cycle ends seen from outside the engine,
the shapes of the instruction rules, and where a store reaches memory.
-/
namespace Sys2Proof.Machine

/-! ### The invariant -/

/-- What holds at reset and every step keeps. U6 (93_implementation_defined.md) lists the opposite of each clause among
the values no rule can produce. -/
structure State.Inv (s : State) : Prop where
  /-- The parameters are ones R6, R50 and R302 admit. -/
  params : s.cfg.wf
  /-- Memory is in its canonical form. -/
  memWf : Memory.wf s.mem = true
  /-- Memory lists nothing at or beyond `MEM_WORDS` (R32, R50). -/
  memRange : ∀ c ∈ s.mem, c.1 < s.cfg.memWords
  /-- `TABST` encodes a total order of the eight slots (R68). -/
  cacheOrder : Recency.isOrder Recency.row8 8 s.cache.tabst
  /-- `BRSLRU` encodes a total order of the four prefetch slots (R74). -/
  prefetchOrder : Recency.isOrder Recency.row4 4 s.prefetch.lru
  /-- No two cache slots hold the same address variant (R61). -/
  slotsDistinct : ∀ i j : Fin 8, i ≠ j → s.cache.baz[i] = s.cache.baz[j] → s.cache.baz[i] = 0
  /-- `FLUSH` counts up to 8 (R67). -/
  sweepCount : s.cache.flush.toNat ≤ 8
  /-- `TLB[4i+j] = RP[i][12j+11 : 12j]` (R30). -/
  pagesAgree : ∀ (i : Fin 8) (j : Fin 4), s.pages.tlb[4 * i.val + j.val] = s.pages.rp[i].extractLsb' (12 * j.val) 12
  /-- Every page-frame number is within `FRAME_MASK` (R6, R82). -/
  framesMasked : ∀ p : Fin 32, s.pages.tlb[p] &&& s.frameMask = s.pages.tlb[p]
  /-- `RUU[7:6]` are not implemented and read 0 (R19). -/
  ruuReserved : s.ruu &&& 0o300 = 0

/-! ### How a cycle ends -/

/-- The prefetch cache after the advance (R79, R153): only a left half probes the next word, only with the cache enabled,
and only a miss changes anything, the content of the victim slot. -/
def State.lookahead (s : State) : Prefetch :=
  let fv := s.fetchVariant (s.pc + 1)
  if s.right || !s.cfg.cacheEnable || (s.prefetch.search fv).isSome then s.prefetch
  else match Recency.victim4 s.prefetch.lru with
    | some k => { s.prefetch with bas := s.prefetch.bas.set k fv, brs := s.prefetch.brs.set k (s.codeWord (s.phys fv)) }
    | none => s.prefetch

/-- `s` with PC and `RUU.RIGHT` at the following half-instruction and the prefetch cache `c` (R153). -/
def State.stepOver (s : State) (c : Prefetch) : State :=
  { s with pc := if s.right then s.pc + 1 else s.pc, ruu := setBit s.ruu 8 (!s.right), prefetch := c }

/-- The end of a cycle whose instruction, executed at `s`, completed and fell through: the next half, no pending modifier,
the dispatch window closed, and the stop `RunawayPC` if PC wrapped (R150, R153, R159). -/
def State.seqEnd (s : State) (c : Prefetch) : State :=
  let t := s.stepOver c
  { t with
    ruu := setBit t.ruu 4 false, inDispatch := false
    stopped := if s.right && s.pc == 0o77777 then some .runawayPC else s.stopped }

/-- The end of a cycle whose instruction transferred control to `target`: its left half, no pending modifier, the
dispatch window closed (R150, R158, R159). -/
def State.jumpEnd (s : State) (c : Prefetch) (target : Addr) : State :=
  { s with pc := target, ruu := setBit (setBit s.ruu 8 false) 4 false, prefetch := c, inDispatch := false }

/-- The end of a cycle whose instruction produced the modifier `m` and fell through (R159): 0 is the same as none. -/
def State.modifierEnd (s : State) (c : Prefetch) (m : Addr) : State :=
  if m = 0 then s.seqEnd c
  else
    let t := (s.putM 0o20 m).seqEnd c
    { t with ruu := setBit t.ruu 4 true }

/-- The end of a cycle whose instruction completed and stopped the run with `code`: as falling through, with that stop
code (R279, R330). -/
def State.haltEnd (s : State) (c : Prefetch) (code : StopCode) : State := { s.seqEnd c with stopped := some code }

/-- The end of a cycle whose instruction, executed at `s`, raised `f` in its execute phase: the advance stays (R160 (a)),
then the fault handler (R310). -/
def State.faultEnd (s : State) (c : Prefetch) (f : Cause) : State := (s.stepOver c).takeCause f

/-! ### What a fetch finds -/

/-- The word that a fetch at variant `fv` gets (R75): the prefetch slot that holds it, if the cache is enabled and one
does, else the word of memory or of a console register. -/
def State.codeAt (s : State) (fv : Variant) : TWord :=
  match (if s.cfg.cacheEnable then s.prefetch.search fv else none) with
  | some k => s.prefetch.brs[k]
  | none => s.codeWord (s.phys fv)

/-- The prefetch cache after a fetch at variant `fv` (R75): the slot that holds it, else the victim with its new content,
becomes the most recent; with the cache disabled the slot `fv[1:0]` gets the word and nothing else changes. -/
def State.prefetched (s : State) (fv : Variant) : Prefetch :=
  if s.cfg.cacheEnable then
    match s.prefetch.search fv with
    | some k => { s.prefetch with lru := Recency.setWins Recency.row4 4 s.prefetch.lru k }
    | none =>
      match Recency.victim4 s.prefetch.lru with
      | some k =>
        { bas := s.prefetch.bas.set k fv
          brs := s.prefetch.brs.set k (s.codeWord (s.phys fv))
          lru := Recency.setWins Recency.row4 4 s.prefetch.lru k }
      | none => s.prefetch
  else
    { s.prefetch with
      brs := s.prefetch.brs.set (fv.extractLsb' 0 2).toNat (s.codeWord (s.phys fv)) (fv.extractLsb' 0 2).isLt }

/-! ### What a trap records -/

/-- The value that a trap for `c` gives bit `i` of GRP, if it writes that bit: the table of R311, bit by bit. -/
def causeBit (c : Cause) (i : Nat) : Option Bool :=
  match c with
  | .illegalInsn => if i = 12 then some true else none
  | .insnCheck => if i = 14 then some true else none
  | .insnProt => if i = 13 then some true else none
  | .insnBreakpoint => if i = 11 then some true else none
  | .operandProt page => if i = 19 then some true else if 4 ≤ i ∧ i ≤ 8 then some (page.getLsbD (i - 4)) else none
  | .loadWatch => if i = 15 then some true else none
  | .storeWatch => if i = 16 then some true else none
  | .ramCheck block => if i = 20 ∨ i = 3 then some true else if i ≤ 2 then some (block.getLsbD i) else none
  | .cacheCheck slot =>
    if i = 20 then some true else if i = 3 then some false else if i ≤ 2 then some (slot.getLsbD i) else none
  | .overflow => if i = 21 ∨ i = 20 ∨ i = 3 then some true else none
  | .divZero => if i = 22 ∨ i = 21 ∨ i = 20 ∨ i = 3 then some true else none
  | .hostWatchR => none
  | .hostWatchW => none

/-! ### The shapes of the instruction rules -/

/-- `X <- LoadOperand()` alone (R172): the operand and the state after it, or the fault and the state it leaves. -/
def operandAt (reg : BitVec 4) (a : Addr) (s : State) : Res Word := withOperand reg a s fun x t => .ok x t

/-- Undo the pop form's decrement: what `corr_stack` restores when something after the load raises (R157, R310). -/
def State.unpopped (s : State) (reg : BitVec 4) (a : Addr) : State :=
  if isStackForm reg a then s.setSp (s.sp + 1) else s

/-- The rule of an instruction without an operand in memory that falls through with the given effect. -/
def PlainRule (i : BitVec 4 → Addr → Instr) (effect : BitVec 4 → Addr → State → State) : Prop :=
  ∀ reg addr s, s.Inv → exec (i reg addr) s = .next ((effect reg (s.modified addr) s).seqEnd s.lookahead)

/-- The rule of an instruction with an operand in memory: the effect of the operand where the load completes, and the
load's fault where it raises. -/
def OperandRule (i : BitVec 4 → Addr → Instr) (effect : Word → State → State) : Prop :=
  ∀ reg addr s, s.Inv →
    (∀ x u, operandAt reg (s.modified addr) s = .ok x u →
      exec (i reg addr) s = .next ((effect x u).seqEnd s.lookahead)) ∧
    (∀ c u, operandAt reg (s.modified addr) s = .raise c u →
      exec (i reg addr) s = .next (u.faultEnd s.lookahead c))

/-- The rule of an arithmetic instruction with an operand in memory: ACC and RMR get the result; the class bits of RAU
become `cls` unless the result overflows, and then `Overflow` is raised with the stack pointer restored. -/
def ArithRule (i : BitVec 4 → Addr → Instr) (result : Word → State → Alu.Out) (cls : BitVec 6) : Prop :=
  ∀ reg addr s, s.Inv →
    (∀ x u, operandAt reg (s.modified addr) s = .ok x u →
      let r := result x u
      let w := { u with acc := r.acc, rmr := r.rmr }
      (r.overflow = false →
        exec (i reg addr) s = .next ({ w with rau := (u.rau &&& 0o43) ||| cls }.seqEnd s.lookahead)) ∧
      (r.overflow = true →
        exec (i reg addr) s = .next ((w.unpopped reg (s.modified addr)).faultEnd s.lookahead .overflow))) ∧
    (∀ c u, operandAt reg (s.modified addr) s = .raise c u →
      exec (i reg addr) s = .next (u.faultEnd s.lookahead c))

/-! ### Where a store reaches memory -/

/-- The physical address that writing back slot `k` writes, if it writes any (R62). -/
def State.writeBackAddr (s : State) (k : Fin 8) : Option Nat :=
  if s.cache.baz[k] = 0 ∨ s.phys s.cache.baz[k] < 8 then none else some (s.phys s.cache.baz[k])

/-- The state after the write-back of slot `k` (R62): the word reaches memory unless the slot is empty or names a console
register, and the slot is empty. -/
def State.writtenBack (s : State) (k : Fin 8) : State :=
  match s.writeBackAddr k with
  | some p => (s.putWord p s.cache.brz[k]).emptySlot k
  | none => s.emptySlot k

/-- The slot a sweep step takes (R67): the victim, or the slot the counter numbers. -/
def State.sweepTakes (s : State) : Option (Fin 8) :=
  match s.cfg.sweep with
  | .byAge => Recency.victim8 s.cache.tabst
  | .byIndex => some ⟨s.cache.flush.toNat % 8, by omega⟩

/-- The state after the store of `v` at program address `a`, which is not 0 and where the checks find no fault (R62 to
R67): bypass, sweep step, or the normal store into the matching slot or the written-back victim. -/
def State.stored (s : State) (a : Addr) (v : Word) : State :=
  let av := s.dataVariant a
  let w : TWord := ⟨s.storeTag, v⟩
  if s.cfg.cacheEnable = false then
    if isConsoleVariant av then s
    else
      ({ s with draws := s.draws + 1 }.fillSlot (Config.bypassSlot s.draws) av w).writtenBack (Config.bypassSlot s.draws)
  else if isConsoleVariant av then
    match s.sweepTakes with
    | some k => if s.cache.flush.toNat < 8 then ((s.writtenBack k).touch k).advanceSweep else s
    | none => s
  else
    let t := s.setFlush 0
    match s.cache.search av with
    | some k => (t.fillSlot k av w).touch k
    | none =>
      match Recency.victim8 s.cache.tabst with
      | some k => ((t.writtenBack k).fillSlot k av w).touch k
      | none => s

/-- The one word of physical memory that the store at program address `a` changes now, if any (R62 to R67): in bypass
mode the addressed word itself, for a sweep trigger and for a miss the word of the slot that is written back. -/
def State.storeReaches (s : State) (a : Addr) : Option Nat :=
  let av := s.dataVariant a
  if a = 0 then none
  else if s.cfg.cacheEnable = false then
    if isConsoleVariant av ∨ s.phys av < 8 then none else some (s.phys av)
  else if isConsoleVariant av then
    if 8 ≤ s.cache.flush.toNat then none else s.sweepTakes.bind s.writeBackAddr
  else match s.cache.search av with
    | some _ => none
    | none => (Recency.victim8 s.cache.tabst).bind s.writeBackAddr

/-- What the program reads at a data variant with the cache enabled: the slot that holds it, else what a load miss finds
(R70 to R72), whatever its tag. -/
def State.seen (s : State) (av : Variant) : Word :=
  match s.cache.search av with
  | some k => s.cache.brz[k].data
  | none => if s.phys av < 8 then s.consoleAt (s.phys av) else (Memory.read s.mem (s.phys av)).data

end Sys2Proof.Machine
end

