-- ==== Sys2Proof/Certificates/Slice0/Obligations.lean ====
section
/-!
DEFINITION. The statements for the provers. Each docstring names the rule or the rules of spec/ it formalises.
A statement about an instruction says, by an equation, the whole next state: what it does not name is unchanged, and
`seqEnd`, `jumpEnd`, `modifierEnd`, `haltEnd`, `faultEnd` (Safety.lean) say what the cycle around it does. They hold for
every state that meets the invariant `State.Inv`, which reset has and every step keeps.
-/

open Sys2Proof Sys2Proof.Machine

/-! ### Encoding -/

/-- R102, R103, R104: the words of the two formats, two halves in a word, and decoding inverts encoding (R110, which the
spec marks "derived: from rules R102 to R104"). -/
def Obligations.EncodingFollowsTheFormats : Prop :=
  (∀ i : Instr, i.wellFormed = true →
    decode (encode i) = i ∧
    (encode i).toNat =
      if i.isLong then i.reg.toNat * 2 ^ 20 + i.opcode * 2 ^ 12 + i.addr.toNat
      else i.reg.toNat * 2 ^ 20 + (if 0o70000 ≤ i.addr.toNat then 2 ^ 18 else 0) + i.opcode * 2 ^ 12
        + i.addr.toNat % 2 ^ 12) ∧
  ∀ l r : Half, (joinHalves l r).toNat = l.toNat * 2 ^ 24 + r.toNat ∧
    leftHalf (joinHalves l r) = l ∧ rightHalf (joinHalves l r) = r

/-- R101 to R104, and R107, which the spec marks "derived: from rules R102, R103": every 24-bit pattern decodes to a
well-formed instruction that encodes to it; the match and mask pair of an opcode holds exactly where that opcode is
decoded; the register field and the address field are the pattern's. -/
def Obligations.DecodingIsTotal : Prop :=
  ∀ h : Half,
    (decode h).wellFormed = true ∧ encode (decode h) = h ∧
    (∀ n, n < 64 → ((decode h).opcode = n ↔ h &&& 0x0BF000 = BitVec.ofNat 24 (n <<< 12))) ∧
    (∀ k, k < 16 → ((decode h).opcode = 0o200 + 8 * k ↔ h &&& 0x0F8000 = BitVec.ofNat 24 (0x080000 ||| k <<< 15))) ∧
    (decode h).reg = h.extractLsb' 20 4 ∧ (decode h).isLong = h.getLsbD 19 ∧
    (h.getLsbD 19 = false →
      (decode h).addr.toNat = (h.extractLsb' 0 12).toNat + (if h.getLsbD 18 then 0o70000 else 0)) ∧
    (h.getLsbD 19 = true → (decode h).addr = h.extractLsb' 0 15)

/-- Words the spec writes out in its instruction rules decode to the instructions they stand for. -/
def Obligations.SpecWordsDecode : Prop :=
  decode 0o74000000 = .atx 0o17 0 ∧ decode 0o10100100 = .xta 2 0o100 ∧ decode 0o00340103 = .ePlusN 0 0o103 ∧
  decode 0o00020237 = .mod 0 0o237 ∧ decode 0o01477777 = .op47 0 0o77777 ∧ decode 0o00500010 = .ex50 0 0o10 ∧
  decode 0o02001234 = .ex20 0 0o1234 ∧ decode 0o12577777 = .utm 2 0o77777 ∧ decode 0o37103000 = .vjm 7 0o3000 ∧
  decode 0o17200000 = .ij 3 0

/-! ### The cycle -/

/-- R150, R151, R152, R156: a cycle that reaches an instruction executes the half of the fetched word that `RUU.RIGHT`
selects, decoded, on the state after the top of the cycle and the fetch. -/
def Obligations.StepRunsDecodedHalf : Prop :=
  ∀ s : State, s.Inv → s.stopped = none → s.atBreakpoint = false →
    let t := s.beginCycle
    let fv := t.fetchVariant t.pc
    t.pc ≠ 0 → (t.sup = true ∨ t.pages.frame (pageOf t.pc) ≠ 0) → t.ibp ≠ fv →
    (t.codeAt fv).tag = TWord.instructionTag →
    step s = exec (decode (t.selectHalf (t.codeAt fv).data)) { t with prefetch := t.prefetched fv }

/-- R78, R77, R76, R314 (3): the outcomes of a fetch in their order; R310, and R313, which the spec marks as derived: a
cycle whose fetch raises goes to the fault handler with PC and `RUU.RIGHT` still at the half-instruction that was to be
fetched. -/
def Obligations.FetchOutcomes : Prop :=
  (∀ (s : State) (a : Addr), s.Inv →
    let fv := variant s.sup a
    let w := s.codeAt fv
    let t := { s with prefetch := s.prefetched fv }
    fetchWord a s =
      if a = 0 then .raise .insnCheck s
      else if s.sup = false ∧ s.pages.frame (pageOf a) = 0 then .raise .insnProt s
      else if s.ibp = fv then .raise .insnBreakpoint s
      else if w.tag = 1 then .ok w.data t
      else .raise .insnCheck t) ∧
  (∀ (s t : State) (c : Cause), s.Inv → s.stopped = none → s.atBreakpoint = false →
    fetchWord s.beginCycle.pc s.beginCycle = .raise c t →
    step s = .next (t.takeCause c) ∧ t.pc = s.beginCycle.pc ∧ t.right = s.beginCycle.right)

/-- R75: `prefetch(fv, commit)`, the hit, the miss and the disabled cache, committed and as a probe. -/
def Obligations.PrefetchRule : Prop :=
  ∀ (s : State) (fv : Variant), s.Inv →
    let w : TWord := if s.phys fv < 8 then ⟨1, s.consoleAt (s.phys fv)⟩ else Memory.read s.mem (s.phys fv)
    let c := s.prefetch
    (s.cfg.cacheEnable = true → ∀ k, c.search fv = some k →
      prefetch fv true s =
        .ok c.brs[k] { s with prefetch := { c with lru := Recency.setWins Recency.row4 4 c.lru k } } ∧
      probe fv s = .ok () s) ∧
    (s.cfg.cacheEnable = true → c.search fv = none → ∀ k, Recency.victim4 c.lru = some k →
      prefetch fv true s = .ok w { s with prefetch :=
        { bas := c.bas.set k fv, brs := c.brs.set k w, lru := Recency.setWins Recency.row4 4 c.lru k } } ∧
      probe fv s = .ok () { s with prefetch := { c with bas := c.bas.set k fv, brs := c.brs.set k w } }) ∧
    (s.cfg.cacheEnable = false →
      prefetch fv true s = .ok w { s with prefetch :=
        { c with brs := c.brs.set (fv.extractLsb' 0 2).toNat w (fv.extractLsb' 0 2).isLt } } ∧
      probe fv s = .ok () s)

/-- R150 step 1, R330, R340, R33: a stopped machine stays as it is; a cycle at a host breakpoint stops before anything
is executed; resuming from that stop skips the test once. How a step treats a stopped machine and the field `resuming`
are the model's choice (notes/assumptions/9.md, 10.md). -/
def Obligations.HostStops : Prop :=
  (∀ s : State, s.stopped ≠ none → step s = .next s) ∧
  (∀ s : State, s.stopped = none → s.host.breakE.contains s.pc = true → s.resuming = false →
    step s = .next { s with stopped := some .breakpoint }) ∧
  (∀ s : State, s.stopped = some .breakpoint →
    s.resume = { s with stopped := none, resuming := true } ∧ s.resume.atBreakpoint = false ∧
    s.resume.beginCycle.resuming = false)

/-- R301, R303, R306: the top of the cycle. That it clears the field `resuming` is the model's choice
(notes/assumptions/10.md). -/
def Obligations.InterruptEntry : Prop :=
  ∀ s : State,
    let g : BitVec 48 := if s.prp &&& s.mprp = 0 then s.grp else s.grp ||| (1#48 <<< 36)
    let u : State := { s with grp := g, resuming := false }
    let due : Prop := s.inDispatch = false ∧ s.right = false ∧ s.intrDisable = false ∧ g &&& s.mgrp ≠ 0
    (¬ due → s.beginCycle = u) ∧
    (due → s.beginCycle = u.trapEntry 0o501 ∧ s.beginCycle.grp = g ∧ s.beginCycle.inDispatch = false ∧
      s.beginCycle.pc = 0o501 ∧ s.beginCycle.spsw.getLsbD 8 = false ∧ s.beginCycle.getM 0o33 = s.pc)

/-- R305: what a trap entry saves, sets and leaves. -/
def Obligations.TrapEntryRule : Prop :=
  ∀ (s : State) (vector : Addr),
    let t := s.trapEntry vector
    t.spsw = (s.psw &&& 0o2003) ||| (s.ruu &&& 0o14).setWidth 15 ||| (if s.right then 0o400 else 0) |||
      (if s.modPending then 0o20 else 0) ∧
    t.getM 0o33 = s.pc ∧
    t.psw = s.psw ||| 0o2003 ∧
    t.ruu = (s.ruu &&& 0o343) ||| 0o10 ∧
    t.pc = vector ∧
    (∀ r, r ≠ 0o21 → r ≠ 0o27 → r ≠ 0o33 → t.getM r = s.getM r) ∧
    { t with pc := s.pc, ruu := s.ruu, m := s.m } = s

/-- R311, R312, R25: the bits of GRP a trap writes, and every other bit kept. -/
def Obligations.TrapCauseBits : Prop :=
  ∀ (c : Cause) (g : BitVec 48) (i : Nat), i < 48 → (noteCause c g).getLsbD i = (causeBit c i).getD (g.getLsbD i)

/-- R310 steps 3 to 6, R315, R316, R320: which faults stop the run, a stop changes nothing else, any other fault
traps, and a trap inside the dispatch window stops with `DoubleTrap` after the second entry. -/
def Obligations.FaultHandler : Prop :=
  (∀ (s : State) (c : Cause), c ≠ .hostWatchR → c ≠ .hostWatchW →
    let t := { s.trapEntry 0o500 with grp := noteCause c s.grp }
    s.takeCause c =
      match s.haltCode c with
      | some code => { s with stopped := some code }
      | none => if s.inDispatch then { t with stopped := some .doubleTrap } else { t with inDispatch := true }) ∧
  (∀ (s : State),
    let alu := !s.ruu.getLsbD 5 && (s.psw.getLsbD 2 || s.psw.getLsbD 3)
    s.haltCode .illegalInsn = (if s.psw.getLsbD 2 then some .illegalInsn else none) ∧
    s.haltCode .insnProt = (if s.psw.getLsbD 2 then some .insnProt else none) ∧
    s.haltCode .insnBreakpoint = (if s.psw.getLsbD 2 then some .insnBreakpoint else none) ∧
    s.haltCode .loadWatch = (if s.psw.getLsbD 2 then some .loadWatch else none) ∧
    s.haltCode .storeWatch = (if s.psw.getLsbD 2 then some .storeWatch else none) ∧
    s.haltCode .insnCheck = (if s.psw.getLsbD 3 then some .insnCheck else none) ∧
    (∀ b, s.haltCode (.ramCheck b) = (if s.psw.getLsbD 3 then some .ramCheck else none)) ∧
    (∀ k, s.haltCode (.cacheCheck k) = (if s.psw.getLsbD 3 then some .cacheCheck else none)) ∧
    (∀ p, s.haltCode (.operandProt p) = none) ∧
    s.haltCode .overflow = (if alu then some .overflow else none) ∧
    s.haltCode .divZero = (if alu then some .divZero else none))

/-- R318: a host watch stop rolls back one half-instruction, which undoes the advance, and stops; nothing else
changes. -/
def Obligations.HostWatchRollsBack : Prop :=
  (∀ (s : State),
    let t : State := { s with
      pc := if s.right then s.pc else s.pc - 1, ruu := setBit s.ruu 8 (!s.right) }
    s.takeCause .hostWatchR = { t with stopped := some .hostWatchR } ∧
    s.takeCause .hostWatchW = { t with stopped := some .hostWatchW }) ∧
  (∀ (s : State) (c : Prefetch),
    s.faultEnd c .hostWatchR = { s with prefetch := c, stopped := some .hostWatchR } ∧
    s.faultEnd c .hostWatchW = { s with prefetch := c, stopped := some .hostWatchW })

/-- R108, R275: `*32` raises `IllegalInsn` in every mode, and five opcodes raise it in user mode, with nothing done
but the advance. -/
def Obligations.IllegalInstructions : Prop :=
  ∀ (reg : BitVec 4) (addr : Addr) (s : State), s.Inv →
    exec (.op32 reg addr) s = .next (s.faultEnd s.lookahead .illegalInsn) ∧
    (s.sup = false →
      exec (.mod reg addr) s = .next (s.faultEnd s.lookahead .illegalInsn) ∧
      exec (.ext reg addr) s = .next (s.faultEnd s.lookahead .illegalInsn) ∧
      exec (.op46 reg addr) s = .next (s.faultEnd s.lookahead .illegalInsn) ∧
      exec (.op47 reg addr) s = .next (s.faultEnd s.lookahead .illegalInsn) ∧
      exec (.ij reg addr) s = .next (s.faultEnd s.lookahead .illegalInsn))

/-- Every step keeps the invariant: the canonical form and the range of memory (R32, R50), both recency orders (R68,
R74), distinct cache addresses (R61), the sweep counter (R67), the page table and its expansion (R30, R82), the
unimplemented bits of RUU (R19). -/
def Obligations.StepKeepsInvariant : Prop :=
  ∀ s t : State, s.Inv → step s = .next t → t.Inv

/-- The invariant holds right after reset, and after the reset of any state that meets it. The memory and the parameters
of `State.reset` are the model's choice (notes/assumptions/2.md, 3.md). -/
def Obligations.ResetMeetsInvariant : Prop :=
  State.reset.Inv ∧ ∀ s : State, s.Inv → s.resetFrom.Inv

/-- Under the invariant every step answers a next state: no access leaves memory (R50, R82) and both victims are defined
(R68, R74), so the model neither faults nor refuses. -/
def Obligations.StepAlwaysAnswers : Prop :=
  (∀ s : State, s.Inv → ∃ t, step s = .next t) ∧
  ∀ (i : Instr) (s : State), s.Inv → ∃ t, exec i s = .next t

/-- R350, R351: every register after reset, and what reset leaves alone. -/
def Obligations.ResetValues : Prop :=
  ∀ s : State,
    let t := s.resetFrom
    t.acc = 0 ∧ t.rmr = 0 ∧ t.rau = 0 ∧ t.ruu = 0o44 ∧ t.pc = s.cfg.resetPc ∧
    t.getM 0o21 = 0o2017 ∧ t.getM 0o27 = 0o2007 ∧ (∀ r, r ≠ 0o21 → r ≠ 0o27 → t.getM r = 0) ∧ t.ibp = 0 ∧ t.dwp = 0 ∧
    t.grp = 0 ∧ t.mgrp = 0 ∧ (∀ k : Fin 8, t.cache.baz[k] = 0 ∧ t.cache.brz[k] = ⟨0, 0⟩) ∧
    t.cache.tabst = 0 ∧ t.cache.flush = 0 ∧
    (∀ k : Fin 4, t.prefetch.bas[k] = 0 ∧ t.prefetch.brs[k] = ⟨0, 0⟩) ∧ t.prefetch.lru = 0 ∧
    (∀ i : Fin 8, t.pages.rp[i] = 0) ∧ (∀ p : Fin 32, t.pages.tlb[p] = 0) ∧ t.pages.rz = 0 ∧
    t.inDispatch = false ∧ t.stopped = none ∧
    t.mem = s.mem ∧ t.prp = s.prp ∧ t.mprp = s.mprp ∧ t.host = s.host ∧ t.cfg = s.cfg

/-- R335: supervisor mode is left only by `ij` with a saved user mode. -/
def Obligations.SupervisorLeftOnlyByReturn : Prop :=
  (∀ (i : Instr) (s t : State), s.Inv → exec i s = .next t → s.sup = true → t.sup = false →
    (∃ reg addr, i = .ij reg addr) ∧ s.spsw.getLsbD 2 = false ∧ s.spsw.getLsbD 3 = false) ∧
  ∀ s t : State, s.Inv → step s = .next t → s.sup = true → t.sup = false →
    ∃ h u reg addr, fetchHalf s.beginCycle = .ok h u ∧ decode h = .ij reg addr ∧
      u.spsw.getLsbD 2 = false ∧ u.spsw.getLsbD 3 = false

/-- R335, R16, R108: an instruction executed in user mode that does not enter supervisor mode changes no supervisor
register, no interrupt or mask register, no page table, no protection, no control bit of RUU, and emits no output. -/
def Obligations.UserModeIsConfined : Prop :=
  ∀ (i : Instr) (s t : State), s.Inv → exec i s = .next t → s.sup = false → t.sup = false →
    (∀ r, 0o21 ≤ r → t.getM r = s.getM r) ∧ t.ibp = s.ibp ∧ t.dwp = s.dwp ∧
    t.grp = s.grp ∧ t.mgrp = s.mgrp ∧ t.prp = s.prp ∧ t.mprp = s.mprp ∧ t.pages = s.pages ∧
    t.ruu &&& 0o57 = s.ruu &&& 0o57 ∧ t.ioOut = s.ioOut ∧ t.host = s.host ∧ t.cfg = s.cfg

/-! ### Memory -/

/-- R53: program address 0. -/
def Obligations.AddressZero : Prop :=
  ∀ (s : State) (v : Word),
    memRead 0 s = .ok 0 s ∧ memWrite 0 v s = .ok () s ∧ fetchWord 0 s = .raise .insnCheck s

/-- R59, R60, R56, R314 (5): the checks of a data access at program address `a`, in their order. -/
def Obligations.DataChecks : Prop :=
  ∀ (s : State) (store : Bool) (a : Addr),
    let av : Variant := BitVec.ofBool (s.psw.getLsbD 0) ++ a
    let exempt : Prop := s.psw.getLsbD 1 = true ∨ (s.sup = true ∧ s.psw.getLsbD 0 = true ∧ a.toNat < 8)
    s.dataFault store a =
      if ¬ exempt ∧ s.pages.rz.getLsbD (a.toNat / 1024) = true then some (.operandProt (a.extractLsb' 10 5))
      else if s.dwp = av ∧ s.psw.getLsbD 4 = store then some (if store then .storeWatch else .loadWatch)
      else if store = true ∧ av ∈ s.host.watchW then some .hostWatchW
      else if store = false ∧ av ∈ s.host.watchR then some .hostWatchR
      else none

/-- R70, R71, R72: every outcome of a load. -/
def Obligations.LoadRule : Prop :=
  ∀ (s : State) (a : Addr), s.Inv → a ≠ 0 →
    let p := s.phys (s.dataVariant a)
    (∀ c, s.dataFault false a = some c → memRead a s = .raise c s) ∧
    (s.dataFault false a = none →
      (∀ k, s.cfg.cacheEnable = true → s.cache.search (s.dataVariant a) = some k →
        let t := if Recency.victim8 s.cache.tabst = some k then s else s.touch k
        (s.cache.brz[k].tag = 2 → memRead a s = .ok s.cache.brz[k].data t) ∧
        (s.cache.brz[k].tag ≠ 2 → memRead a s = .raise (.cacheCheck (BitVec.ofNat 3 k)) t)) ∧
      (s.cfg.cacheEnable = false ∨ s.cache.search (s.dataVariant a) = none →
        (p < 8 → memRead a s = .ok (s.consoleAt p) s) ∧
        (8 ≤ p → (Memory.read s.mem p).tag = 2 → memRead a s = .ok (Memory.read s.mem p).data s) ∧
        (8 ≤ p → (Memory.read s.mem p).tag ≠ 2 → memRead a s = .raise (.ramCheck (BitVec.ofNat 3 p)) s)))

/-- R64: a store happens completely or not at all; R57, R62, R63, R65, R66, R67 say what happens (`State.stored`). That the
slot of a bypass store is the free value `Config.bypassSlot` at the counter `draws`, which the store advances, is the
model's choice (notes/assumptions/6.md, 8.md). -/
def Obligations.StoreRule : Prop :=
  ∀ (s : State) (a : Addr) (v : Word), s.Inv → a ≠ 0 →
    let av := s.dataVariant a
    let w : TWord := ⟨s.ruu.extractLsb' 0 2 ^^^ 1, v⟩
    (∀ c, s.dataFault true a = some c → memWrite a v s = .raise c s) ∧
    (s.dataFault true a = none →
      (s.cfg.cacheEnable = false → isConsoleVariant av = true → memWrite a v s = .ok () s) ∧
      (s.cfg.cacheEnable = false → isConsoleVariant av = false →
        let k := Config.bypassSlot s.draws
        memWrite a v s = .ok () (({ s with draws := s.draws + 1 }.fillSlot k av w).writtenBack k)) ∧
      (s.cfg.cacheEnable = true → isConsoleVariant av = true → 8 ≤ s.cache.flush.toNat → memWrite a v s = .ok () s) ∧
      (s.cfg.cacheEnable = true → isConsoleVariant av = true → s.cache.flush.toNat < 8 →
        ∀ k, s.sweepTakes = some k → memWrite a v s = .ok () ((s.writtenBack k).touch k).advanceSweep) ∧
      (s.cfg.cacheEnable = true → isConsoleVariant av = false → ∀ k, s.cache.search av = some k →
        memWrite a v s = .ok () (((s.setFlush 0).fillSlot k av w).touch k)) ∧
      (s.cfg.cacheEnable = true → isConsoleVariant av = false → s.cache.search av = none →
        ∀ k, Recency.victim8 s.cache.tabst = some k →
          memWrite a v s = .ok () ((((s.setFlush 0).writtenBack k).fillSlot k av w).touch k)))

/-- The frame of a store (R62 to R67): it reaches at most the one word of physical memory that `storeReaches`
computes, and changes nothing outside memory, the write-back cache and the draw counter, the model's own
(notes/assumptions/6.md, 8.md). -/
def Obligations.StoreFrame : Prop :=
  ∀ (s t : State) (a : Addr) (v : Word), s.Inv → memWrite a v s = .ok () t →
    (∀ p, s.storeReaches a ≠ some p → Memory.read t.mem p = Memory.read s.mem p) ∧
    { t with mem := s.mem, cache := s.cache, draws := s.draws } = s

/-- R84, R86 (a): with the cache enabled a completed store to an ordinary address is what the same variant then reads;
another variant reads as before where it is in the cache over memory, or is not in the cache and names no word written
back. -/
def Obligations.StoreThenLoad : Prop :=
  ∀ (s t : State) (a : Addr) (v : Word), s.Inv → a ≠ 0 → s.cfg.cacheEnable = true →
    isConsoleVariant (s.dataVariant a) = false → memWrite a v s = .ok () t →
    t.seen (s.dataVariant a) = v ∧
    (∀ av, av ≠ 0 → av ≠ s.dataVariant a →
      ((s.cache.search av).isSome = true → 8 ≤ s.phys av → t.seen av = s.seen av) ∧
      (s.cache.search av = none → s.storeReaches a ≠ some (s.phys av) → t.seen av = s.seen av))

/-- R65, R67: eight consecutive sweep steps from `FLUSH = 0` empty the cache and clear the table; every word that was
to be written back is in memory unless another slot names the same physical word, and no other word of memory changes.
-/
def Obligations.SweepDrainsTheCache : Prop :=
  ∀ (s : State) (a : Addr) (v : Word), s.Inv → a ≠ 0 → s.cfg.cacheEnable = true → s.cache.flush = 0 →
    isConsoleVariant (s.dataVariant a) = true → s.dataFault true a = none →
    let store := fun (r : Res Unit) => r.andThen fun _ u => memWrite a v u
    ∃ t, store (store (store (store (store (store (store (store (.ok () s)))))))) = .ok () t ∧
      (∀ k : Fin 8, t.cache.baz[k] = 0) ∧ t.cache.tabst = 0 ∧ t.cache.flush = 8 ∧
      (∀ (k : Fin 8) (p : Nat), s.writeBackAddr k = some p →
        ∃ j : Fin 8, s.writeBackAddr j = some p ∧ Memory.read t.mem p = s.cache.brz[j]) ∧
      (∀ p, (∀ k : Fin 8, s.writeBackAddr k ≠ some p) → Memory.read t.mem p = Memory.read s.mem p)

/-- R82, R30, R88: a page-table register write. -/
def Obligations.PageRegisterWrite : Prop :=
  ∀ (s : State) (i : Fin 8) (v : Word),
    let t := s.setPageRegister i v
    (∀ j : Fin 4,
      let f : Nat := (v.extractLsb' (5 * j) 5).toNat + 2 ^ 5 * (v.getLsbD (28 + j)).toNat
        + 2 ^ 6 * (v.getLsbD (32 + j)).toNat + 2 ^ 7 * (v.getLsbD (36 + j)).toNat
        + 2 ^ 8 * (v.getLsbD (40 + j)).toNat + 2 ^ 9 * (v.getLsbD (44 + j)).toNat
      t.pages.tlb[4 * i.val + j.val] = BitVec.ofNat 12 f &&& s.frameMask ∧
      t.pages.rp[i].extractLsb' (12 * j) 12 = BitVec.ofNat 12 f &&& s.frameMask) ∧
    (∀ p : Fin 32, p.val / 4 ≠ i.val → t.pages.tlb[p] = s.pages.tlb[p]) ∧
    (∀ n : Fin 8, n ≠ i → t.pages.rp[n] = s.pages.rp[n]) ∧
    t.pages.rz = s.pages.rz ∧ { t with pages := s.pages } = s

/-- R58, R74, and R68, which the spec marks "derived: from rule R58": both tournament tables: an order has exactly one
victim, `setWins` moves a slot to the top and keeps the others as they were, and the table 0 has slot 0 as its victim.
-/
def Obligations.RecencyOrder : Prop :=
  (∀ t : BitVec 28, Recency.isOrder Recency.row8 8 t →
    (∃ k : Fin 8, Recency.victim8 t = some k ∧ ∀ j : Fin 8, Recency.losesToAll Recency.row8 8 t j = true ↔ j = k) ∧
    ∀ k : Fin 8, Recency.isOrder Recency.row8 8 (Recency.setWins Recency.row8 8 t k) ∧
      ∀ i j : Fin 8, i ≠ j → Recency.beats Recency.row8 (Recency.setWins Recency.row8 8 t k) i j =
        if i = k then true else if j = k then false else Recency.beats Recency.row8 t i j) ∧
  (∀ t : BitVec 6, Recency.isOrder Recency.row4 4 t →
    (∃ k : Fin 4, Recency.victim4 t = some k ∧ ∀ j : Fin 4, Recency.losesToAll Recency.row4 4 t j = true ↔ j = k) ∧
    ∀ k : Fin 4, Recency.isOrder Recency.row4 4 (Recency.setWins Recency.row4 4 t k) ∧
      ∀ i j : Fin 4, i ≠ j → Recency.beats Recency.row4 (Recency.setWins Recency.row4 4 t k) i j =
        if i = k then true else if j = k then false else Recency.beats Recency.row4 t i j) ∧
  Recency.isOrder Recency.row8 8 (0 : BitVec 28) ∧ Recency.victim8 0 = some 0 ∧
  Recency.isOrder Recency.row4 4 (0 : BitVec 6) ∧ Recency.victim4 0 = some 0

/-! ### The arithmetic unit -/

/-- R137: where `Pack` and `Unpack` put each bit, and the round trip. `below m p` counts the mask bits under position
`p`. -/
def Obligations.PackAndUnpack : Prop :=
  ∀ v m : Word,
    let below := fun p => ((List.range p).filter fun i => m.getLsbD i).length
    let k := below 48
    (∀ p, p < 48 → m.getLsbD p = true → (Alu.gather v m).getLsbD (48 - k + below p) = v.getLsbD p) ∧
    (∀ b, b < 48 - k → (Alu.gather v m).getLsbD b = false) ∧
    (∀ p, p < 48 → (Alu.scatter v m).getLsbD p = (m.getLsbD p && v.getLsbD (48 - k + below p))) ∧
    Alu.scatter (Alu.gather v m) m = v &&& m

/-- R134: the shift is one logical shift of 96 bits. -/
def Obligations.ShiftIsOf96Bits : Prop :=
  ∀ (v : Word) (k : Nat),
    (k ≤ 63 → (Alu.shift k v).1 ++ (Alu.shift k v).2 = (v ++ 0#48) >>> k) ∧
    (1 ≤ k → k ≤ 64 → (Alu.shift (-(k : Int)) v).2 ++ (Alu.shift (-(k : Int)) v).1 = (0#48 ++ v) <<< k)

/-- R124, and R126, which the spec marks "derived: from rule R124": on a normalized operand with no round request
`NormRound` packs it unchanged, and rounding twice is rounding once. -/
def Obligations.NormRoundIsIdempotent : Prop :=
  ∀ (rau : BitVec 6) (rmr : Word) (a : Alu.Work) (mr : BitVec 40), 0 ≤ a.e → a.e < 128 →
    a.m.getLsbD 40 ≠ a.m.getLsbD 39 →
    Alu.normRound rau rmr a mr false = { acc := Alu.pack a.m a.e, rmr := Alu.keepUpper rmr mr, overflow := false } ∧
    (rau.getLsbD 1 = false →
      Alu.normRound rau rmr a mr true =
        { acc := Alu.pack (a.m ||| 1) a.e, rmr := Alu.keepUpper rmr mr, overflow := false } ∧
      Alu.normRound rau rmr { m := a.m ||| 1, e := a.e } mr true = Alu.normRound rau rmr a mr true)

/-- R124, R11: with normalization enabled the result is the canonical zero or a normalized word. -/
def Obligations.ResultsAreNormalized : Prop :=
  ∀ (rau : BitVec 6) (rmr : Word) (a : Alu.Work) (mr : BitVec 40) (rq : Bool), rau.getLsbD 0 = false →
    let r := Alu.normRound rau rmr a mr rq
    (r.acc = 0 ∧ r.rmr = rmr.extractLsb' 40 8 ++ 0#40 ∧ r.overflow = false) ∨ r.acc.getLsbD 40 ≠ r.acc.getLsbD 39

/-- R124: normalization loses nothing. The signed 41-bit mantissa and the 40-bit remainder, as one number scaled by the
exponent, are the same before and after; the only number without a normal form is 0. -/
def Obligations.NormalizationIsExact : Prop :=
  ∀ (a : Alu.Work) (mr : BitVec 40),
    let value := fun (m : BitVec 42) (r : BitVec 40) => (m.setWidth 41).toInt * 2 ^ 40 + (r.toNat : Int)
    match Alu.normalize a mr with
    | none => value a.m mr = 0
    | some n => n.e ≤ a.e ∧ value n.m n.mr = value a.m mr * 2 ^ (a.e - n.e).toNat ∧ n.m.getLsbD 40 ≠ n.m.getLsbD 39

/-- R127: addition does not depend on the order of its operands. -/
def Obligations.AdditionCommutes : Prop :=
  ∀ (rau : BitVec 6) (x y rmr : Word), Alu.add rau x rmr y false false = Alu.add rau y rmr x false false

/-! ### The instructions -/

/-- R157, and R172, R160, which the spec marks as derived: `LoadOperand`, with the pop form; a load that raises
restores the stack pointer; beside the stack pointer a load changes at most the recency table. -/
def Obligations.OperandForms : Prop :=
  ∀ (reg : BitVec 4) (a : Addr) (s : State), s.Inv →
    ((reg = 0o17 ∧ a = 0) →
      operandAt reg a s = (memRead (s.sp - 1) (s.setSp (s.sp - 1))).undoing 1) ∧
    (¬ (reg = 0o17 ∧ a = 0) → operandAt reg a s = memRead (a + s.getM reg.toNat) s) ∧
    (∀ x t, operandAt reg a s = .ok x t →
      let u := if reg = 0o17 ∧ a = 0 then s.setSp (s.sp - 1) else s
      { t with cache := { t.cache with tabst := u.cache.tabst } } = u) ∧
    (∀ c t, operandAt reg a s = .raise c t → { t with cache := { t.cache with tabst := s.cache.tabst } } = s)

/-- R178, R179, R180, R183: `xta`, `aax`, `aex`, `aox`. -/
def Obligations.LoadAndLogic : Prop :=
  OperandRule .xta (fun x u => { u with acc := x, rau := (u.rau &&& 0o43) ||| 0o04 }) ∧
  OperandRule .aax (fun x u => { u with acc := u.acc &&& x, rmr := 0, rau := (u.rau &&& 0o43) ||| 0o04 }) ∧
  OperandRule .aex (fun x u => { u with acc := u.acc ^^^ x, rmr := u.acc, rau := (u.rau &&& 0o43) ||| 0o04 }) ∧
  OperandRule .aox (fun x u => { u with acc := u.acc ||| x, rmr := 0, rau := (u.rau &&& 0o43) ||| 0o04 })

/-- R181, R200, R201, R202, R203, R206, R214: `arx`, `apx`, `aux`, `acx`, `anx`, `asx`, `xtr`. -/
def Obligations.BitAndShiftByOperand : Prop :=
  OperandRule .arx (fun x u =>
    { u with acc := Alu.cyclicAdd u.acc x, rmr := 0, rau := (u.rau &&& 0o43) ||| 0o10 }) ∧
  OperandRule .apx (fun x u =>
    { u with acc := Alu.gather u.acc x, rmr := 0, rau := (u.rau &&& 0o43) ||| 0o04 }) ∧
  OperandRule .aux (fun x u =>
    { u with acc := Alu.scatter u.acc x, rmr := 0, rau := (u.rau &&& 0o43) ||| 0o04 }) ∧
  OperandRule .acx (fun x u =>
    { u with acc := Alu.cyclicAdd (BitVec.ofNat 48 (Alu.countOnes u.acc)) x, rau := (u.rau &&& 0o43) ||| 0o04 }) ∧
  OperandRule .anx (fun x u =>
    let n := Alu.highestBit u.acc
    { u with
      acc := if u.acc = 0 then x else Alu.cyclicAdd (BitVec.ofNat 48 n) x
      rmr := if u.acc = 0 then 0 else (Alu.shift (48 - n) u.acc).2
      rau := (u.rau &&& 0o43) ||| 0o04 }) ∧
  OperandRule .asx (fun x u =>
    let n : Int := (x.extractLsb' 41 7).toNat - 64
    { u with acc := (Alu.shift n u.acc).1, rmr := (Alu.shift n u.acc).2, rau := (u.rau &&& 0o43) ||| 0o04 }) ∧
  OperandRule .xtr (fun x u => { u with rau := x.extractLsb' 41 6 })

/-- R174, R175, R176, R177: `a+x`, `a-x`, `x-a`, `amx`. -/
def Obligations.AddAndSubtract : Prop :=
  ArithRule .aPlusX (fun x u => Alu.add u.rau u.acc u.rmr x false false) 0o20 ∧
  ArithRule .aMinusX (fun x u => Alu.add u.rau u.acc u.rmr x false true) 0o20 ∧
  ArithRule .xMinusA (fun x u => Alu.add u.rau u.acc u.rmr x true false) 0o20 ∧
  ArithRule .amx (fun x u => Alu.add u.rau u.acc u.rmr x true true) 0o20

/-- R182, R204, R205: `avx`, `e+x`, `e-x`. -/
def Obligations.SignAndExponentByOperand : Prop :=
  ArithRule .avx (fun x u => Alu.changeSign u.rau u.acc (x.getLsbD 40)) 0o20 ∧
  ArithRule .ePlusX (fun x u => Alu.addExponent u.rau u.acc ((x.extractLsb' 41 7).toNat - 64)) 0o10 ∧
  ArithRule .eMinusX (fun x u => Alu.addExponent u.rau u.acc (64 - (x.extractLsb' 41 7).toNat)) 0o10

/-- R184, R185, R131, R130: `a*x`, and `a/x`, which raises `DivZero` on a divisor that is not normalized before
anything is written. -/
def Obligations.MultiplyAndDivide : Prop :=
  ArithRule .aMulX (fun x u => Alu.multiply u.rau u.acc u.rmr x) 0o10 ∧
  (∀ (rau : BitVec 6) (acc rmr x : Word), acc = 0 ∨ x = 0 →
    Alu.multiply rau acc rmr x = { acc := 0, rmr := rmr.extractLsb' 40 8 ++ 0#40, overflow := false }) ∧
  ∀ (reg : BitVec 4) (addr : Addr) (s : State), s.Inv →
    (∀ x u, operandAt reg (s.modified addr) s = .ok x u →
      let r := Alu.normRound u.rau u.rmr (Alu.divQuotient (Alu.unpack u.acc) (Alu.unpack x)) 0 false
      let w := { u with acc := r.acc, rmr := r.rmr }
      (x.getLsbD 40 = x.getLsbD 39 →
        exec (.aDivX reg addr) s = .next ((u.unpopped reg (s.modified addr)).faultEnd s.lookahead .divZero)) ∧
      (x.getLsbD 40 ≠ x.getLsbD 39 → r.overflow = false →
        exec (.aDivX reg addr) s = .next ({ w with rau := (u.rau &&& 0o43) ||| 0o10 }.seqEnd s.lookahead)) ∧
      (x.getLsbD 40 ≠ x.getLsbD 39 → r.overflow = true →
        exec (.aDivX reg addr) s = .next ((w.unpopped reg (s.modified addr)).faultEnd s.lookahead .overflow))) ∧
    (∀ c u, operandAt reg (s.modified addr) s = .raise c u →
      exec (.aDivX reg addr) s = .next (u.faultEnd s.lookahead c))

/-- R218, R219: `e+n`, `e-n`. -/
def Obligations.ExponentByConstant : Prop :=
  ∀ (reg : BitVec 4) (addr : Addr) (s : State), s.Inv →
    let n : Int := ((s.modified addr + s.getM reg.toNat).extractLsb' 0 7).toNat - 64
    let p := Alu.addExponent s.rau s.acc n
    let q := Alu.addExponent s.rau s.acc (-n)
    let cls := (s.rau &&& 0o43) ||| 0o10
    (p.overflow = false →
      exec (.ePlusN reg addr) s = .next ({ s with acc := p.acc, rmr := p.rmr, rau := cls }.seqEnd s.lookahead)) ∧
    (p.overflow = true →
      exec (.ePlusN reg addr) s = .next ({ s with acc := p.acc, rmr := p.rmr }.faultEnd s.lookahead .overflow)) ∧
    (q.overflow = false →
      exec (.eMinusN reg addr) s = .next ({ s with acc := q.acc, rmr := q.rmr, rau := cls }.seqEnd s.lookahead)) ∧
    (q.overflow = true →
      exec (.eMinusN reg addr) s = .next ({ s with acc := q.acc, rmr := q.rmr }.faultEnd s.lookahead .overflow))

/-- R220, R215, R222: `asn`, `rte`, `ntr`. -/
def Obligations.ConstantShiftAndModes : Prop :=
  PlainRule .asn (fun reg a s =>
    let n : Int := ((a + s.getM reg.toNat).extractLsb' 0 7).toNat - 64
    { s with acc := (Alu.shift n s.acc).1, rmr := (Alu.shift n s.acc).2, rau := (s.rau &&& 0o43) ||| 0o04 }) ∧
  PlainRule .rte (fun reg a s =>
    { s with
      acc := ((s.rau &&& (a + s.getM reg.toNat).extractLsb' 0 6).setWidth 48) <<< 41
      rau := (s.rau &&& 0o43) ||| 0o04 }) ∧
  PlainRule .ntr (fun reg a s => { s with rau := (a + s.getM reg.toNat).extractLsb' 0 6 })

/-- R216: `yta` in both branches. -/
def Obligations.ReadRemainder : Prop :=
  ∀ (reg : BitVec 4) (addr : Addr) (s : State), s.Inv →
    let n : Int := ((s.modified addr + s.getM reg.toNat).extractLsb' 0 7).toNat - 64
    let r := Alu.addExponent s.rau (s.acc.extractLsb' 41 7 ++ 0#1 ++ s.rmr.extractLsb' 0 40) n
    (s.rau.extractLsb' 2 3 = 1 → exec (.yta reg addr) s = .next ({ s with acc := s.rmr }.seqEnd s.lookahead)) ∧
    (s.rau.extractLsb' 2 3 ≠ 1 → r.overflow = false →
      exec (.yta reg addr) s = .next ({ s with acc := r.acc }.seqEnd s.lookahead)) ∧
    (s.rau.extractLsb' 2 3 ≠ 1 → r.overflow = true →
      r.rmr = 0 ∧ exec (.yta reg addr) s = .next ({ s with acc := r.acc, rmr := 0 }.faultEnd s.lookahead .overflow))

/-- R170, R157: `atx`, with the push form. Where it stores is `storeReaches` of the executive address (StoreFrame). -/
def Obligations.StoreAccumulator : Prop :=
  ∀ (reg : BitVec 4) (addr : Addr) (s : State), s.Inv →
    let a := s.modified addr
    (∀ u, memWrite (a + s.getM reg.toNat) s.acc s = .ok () u →
      exec (.atx reg addr) s =
        .next ((if reg = 0o17 ∧ a = 0 then u.putM 0o17 (s.getM 0o17 + 1) else u).seqEnd s.lookahead)) ∧
    (∀ c u, memWrite (a + s.getM reg.toNat) s.acc s = .raise c u →
      exec (.atx reg addr) s = .next (s.faultEnd s.lookahead c))

/-- R171, R173, R160 (c), (d): `stx` and `xts`. -/
def Obligations.StackExchange : Prop :=
  ∀ (reg : BitVec 4) (addr : Addr) (s : State), s.Inv →
    let a := s.modified addr
    (∀ u, memWrite (a + s.getM reg.toNat) s.acc s = .ok () u →
      let w := u.putM 0o17 (s.getM 0o17 - 1)
      (∀ x v, memRead (s.getM 0o17 - 1) w = .ok x v →
        exec (.stx reg addr) s = .next ({ v with acc := x, rau := (s.rau &&& 0o43) ||| 0o04 }.seqEnd s.lookahead)) ∧
      (∀ c v, memRead (s.getM 0o17 - 1) w = .raise c v →
        exec (.stx reg addr) s = .next ((v.putM 0o17 (s.getM 0o17)).faultEnd s.lookahead c))) ∧
    (∀ c u, memWrite (a + s.getM reg.toNat) s.acc s = .raise c u →
      exec (.stx reg addr) s = .next (s.faultEnd s.lookahead c)) ∧
    (∀ u, memWrite (s.getM 0o17) s.acc s = .ok () u →
      let w := u.putM 0o17 (s.getM 0o17 + 1)
      (∀ x v, memRead (a + w.getM reg.toNat) w = .ok x v →
        exec (.xts reg addr) s = .next ({ v with acc := x, rau := (s.rau &&& 0o43) ||| 0o04 }.seqEnd s.lookahead)) ∧
      (∀ c v, memRead (a + w.getM reg.toNat) w = .raise c v →
        exec (.xts reg addr) s = .next ((v.putM 0o17 (s.getM 0o17)).faultEnd s.lookahead c))) ∧
    (∀ c u, memWrite (s.getM 0o17) s.acc s = .raise c u →
      exec (.xts reg addr) s = .next (s.faultEnd s.lookahead c))

/-- R231, R233, R238: `sti` and `its`. What an absent register reads as is the model's free value
(notes/assumptions/7.md). -/
def Obligations.StackAndIndex : Prop :=
  ∀ (reg : BitVec 4) (addr : Addr) (s : State), s.Inv →
    let a := s.modified addr
    let rg := s.sel (a + s.getM reg.toNat)
    let ad : Addr := s.acc.setWidth 15
    let cls := (s.rau &&& 0o43) ||| 0o04
    (rg ≠ 0o17 →
      let w := s.putM 0o17 (s.getM 0o17 - 1)
      (∀ x v, memRead (s.getM 0o17 - 1) w = .ok x v →
        exec (.sti reg addr) s = .next (({ v with acc := x, rau := cls }.putM rg ad).seqEnd s.lookahead)) ∧
      (∀ c v, memRead (s.getM 0o17 - 1) w = .raise c v →
        exec (.sti reg addr) s = .next ((v.putM 0o17 (s.getM 0o17)).faultEnd s.lookahead c))) ∧
    (rg = 0o17 →
      (∀ x v, memRead ad s = .ok x v →
        exec (.sti reg addr) s = .next (({ v with acc := x, rau := cls }.putM 0o17 ad).seqEnd s.lookahead)) ∧
      (∀ c v, memRead ad s = .raise c v → exec (.sti reg addr) s = .next (v.faultEnd s.lookahead c))) ∧
    (∀ u, memWrite (s.getM 0o17) s.acc s = .ok () u →
      let w := u.putM 0o17 (s.getM 0o17 + 1)
      let r := w.sel (a + w.getM reg.toNat)
      (r < 0o36 →
        exec (.its reg addr) s = .next ({ w with acc := (w.getM r).setWidth 48, rau := cls }.seqEnd s.lookahead)) ∧
      (0o36 ≤ r →
        exec (.its reg addr) s = .next ({ w with
          acc := (Config.absentRegister w.draws).setWidth 48, draws := w.draws + 1, rau := cls }.seqEnd s.lookahead))) ∧
    (∀ c u, memWrite (s.getM 0o17) s.acc s = .raise c u →
      exec (.its reg addr) s = .next (s.faultEnd s.lookahead c))

/-- R230, R232, R234, R235, R238, R16: `ati`, `mtj`, `j+m`, `ita`. What an absent register reads as is the model's free
value (notes/assumptions/7.md). -/
def Obligations.IndexRegisterMoves : Prop :=
  (∀ (s : State) (n : Addr), s.sel n = if s.sup then n.toNat % 32 else n.toNat % 16) ∧
  PlainRule .ati (fun reg a s => s.putM (s.sel (a + s.getM reg.toNat)) (s.acc.setWidth 15)) ∧
  PlainRule .mtj (fun reg a s => s.putM (s.sel a) (s.getM reg.toNat)) ∧
  PlainRule .jPlusM (fun reg a s =>
    if s.sup = true ∧ a.getLsbD 4 = true then s.putM (a.toNat % 32) (s.getM reg.toNat)
    else s.putM (a.toNat % 16) (s.getM (a.toNat % 16) + s.getM reg.toNat)) ∧
  PlainRule .ita (fun reg a s =>
    let r := s.sel (a + s.getM reg.toNat)
    if r < 0o36 then { s with acc := (s.getM r).setWidth 48, rau := (s.rau &&& 0o43) ||| 0o04 }
    else { s with
      acc := (Config.absentRegister s.draws).setWidth 48, draws := s.draws + 1, rau := (s.rau &&& 0o43) ||| 0o04 })

/-- R14, R16, R238: reading and writing the registers M. -/
def Obligations.RegisterFile : Prop :=
  ∀ (s : State) (r q : Nat) (v : Addr),
    s.getM 0 = 0 ∧ s.putM 0 v = s ∧
    (r ≠ 0 → r < 0o36 → (s.putM r v).getM r = v) ∧ (q ≠ r → (s.putM r v).getM q = s.getM q) ∧
    (s.putM 0o34 v).ibp = BitVec.ofBool (s.psw.getLsbD 0) ++ v ∧ (s.putM 0o35 v).dwp = BitVec.ofBool (s.psw.getLsbD 0) ++ v ∧
    (r ≠ 0o34 → (s.putM r v).ibp = s.ibp) ∧ (r ≠ 0o35 → (s.putM r v).dwp = s.dwp) ∧
    { s.putM r v with m := s.m, ibp := s.ibp, dwp := s.dwp } = s

/-- R236, R237: `*46` and `*47` in supervisor mode. -/
def Obligations.RegisterFromOwnAddress : Prop :=
  ∀ (reg : BitVec 4) (addr : Addr) (s : State), s.Inv → s.sup = true →
    let a := s.modified addr
    let j := a.toNat % 16
    exec (.op46 reg addr) s = .next ((s.putM j a).seqEnd s.lookahead) ∧
    exec (.op47 reg addr) s = .next ((s.putM j (s.getM j + a)).seqEnd s.lookahead)

/-- R240, R241, R159, R154: `utc`, `wtc`, and the modifier the next half-instruction adds. -/
def Obligations.AddressModifier : Prop :=
  (∀ (s : State) (addr : Addr), s.modified addr = if s.ruu.getLsbD 4 then addr + s.getM 0o20 else addr) ∧
  ∀ (reg : BitVec 4) (addr : Addr) (s : State), s.Inv →
    exec (.utc reg addr) s = .next (s.modifierEnd s.lookahead (s.modified addr + s.getM reg.toNat)) ∧
    (∀ x u, operandAt reg (s.modified addr) s = .ok x u →
      exec (.wtc reg addr) s = .next (u.modifierEnd s.lookahead (x.setWidth 15))) ∧
    (∀ c u, operandAt reg (s.modified addr) s = .raise c u →
      exec (.wtc reg addr) s = .next (u.faultEnd s.lookahead c))

/-- R242, R243: `vtm` and `utm`; with `reg = 0` in supervisor mode they load three bits of PSW from the address. -/
def Obligations.RegisterFromAddress : Prop :=
  let psw := fun (s : State) (a : Addr) => s.putM 0o21 ((s.getM 0o21 &&& ~~~0o2003) ||| (a &&& 0o2003))
  PlainRule .vtm (fun reg a s =>
    if reg = 0 then (if s.sup then psw s a else s) else s.putM reg.toNat a) ∧
  PlainRule .utm (fun reg a s =>
    if reg = 0 then (if s.sup then psw s a else s) else s.putM reg.toNat (a + s.getM reg.toNat))

/-- R250, R251, R258: `uza` and `u1a`. -/
def Obligations.ConditionalBranches : Prop :=
  ∀ (reg : BitVec 4) (addr : Addr) (s : State), s.Inv →
    let target := s.modified addr + s.getM reg.toNat
    let u := { s with rmr := s.acc }
    let w : Bool :=
      if s.rau.getLsbD 4 then s.acc.getLsbD 40
      else if s.rau.getLsbD 3 then !s.acc.getLsbD 47
      else if s.rau.getLsbD 2 then s.acc != 0
      else true
    exec (.uza reg addr) s = .next (if w then u.seqEnd s.lookahead else u.jumpEnd s.lookahead target) ∧
    exec (.u1a reg addr) s = .next (if w then u.jumpEnd s.lookahead target else u.seqEnd s.lookahead)

/-- R252, R253, R254, R255, R256, R257: `uj`, `vjm`, `vzm`, `v1m`, `*36`, `vlm`. -/
def Obligations.JumpsAndLoops : Prop :=
  ∀ (reg : BitVec 4) (addr : Addr) (s : State), s.Inv →
    let a := s.modified addr
    let m := s.getM reg.toNat
    exec (.uj reg addr) s = .next (s.jumpEnd s.lookahead (a + m)) ∧
    exec (.vjm reg addr) s = .next ((s.putM reg.toNat (s.pc + 1)).jumpEnd s.lookahead a) ∧
    exec (.vzm reg addr) s = .next (if m = 0 then s.jumpEnd s.lookahead a else s.seqEnd s.lookahead) ∧
    exec (.v1m reg addr) s = .next (if m = 0 then s.seqEnd s.lookahead else s.jumpEnd s.lookahead a) ∧
    exec (.op36 reg addr) s = .next (if m = 0 then s.jumpEnd s.lookahead a else s.seqEnd s.lookahead) ∧
    exec (.vlm reg addr) s =
      .next (if m = 0 then s.seqEnd s.lookahead else (s.putM reg.toNat (m + 1)).jumpEnd s.lookahead a)

/-- R262: the 26 extracodes. -/
def Obligations.Extracodes : Prop :=
  ∀ p ∈ ([(.ex50, 0o50), (.ex51, 0o51), (.ex52, 0o52), (.ex53, 0o53), (.ex54, 0o54), (.ex55, 0o55), (.ex56, 0o56),
      (.ex57, 0o57), (.ex60, 0o60), (.ex61, 0o61), (.ex62, 0o62), (.ex63, 0o63), (.ex64, 0o64), (.ex65, 0o65),
      (.ex66, 0o66), (.ex67, 0o67), (.ex70, 0o70), (.ex71, 0o71), (.ex72, 0o72), (.ex73, 0o73), (.ex74, 0o74),
      (.ex75, 0o75), (.ex76, 0o76), (.ex77, 0o77), (.ex20, 0o200), (.ex21, 0o210)] :
      List ((BitVec 4 → Addr → Instr) × Nat)),
    ∀ (reg : BitVec 4) (addr : Addr) (s : State), s.Inv →
      (p.1 reg addr).opcode = p.2 ∧
      exec (p.1 reg addr) s = .next
        ((((((s.putM 0o32 (s.pc + 1)).putM 0o27 ((s.psw &&& 0o2003) ||| (s.ruu &&& 0o14).setWidth 15)).putM 0o21
            0o2007).putM 0o16 (s.modified addr + s.getM reg.toNat)).setMode 0b01).jumpEnd s.lookahead
          (BitVec.ofNat 15 (if p.2 ≤ 0o77 then 0o500 + p.2 else 0o540 + p.2 / 8)))

/-- R270, R271, R272, R273, R280, R281: the write functions of `mod` in supervisor mode. -/
def Obligations.SpecialRegisterWrite : Prop :=
  ∀ (reg : BitVec 4) (addr : Addr) (s : State), s.Inv → s.sup = true →
    let f : BitVec 8 := (s.modified addr + s.getM reg.toNat).extractLsb' 0 8
    let n := f.toNat
    let i : Fin 8 := ⟨n % 8, by omega⟩
    (n ≤ 0o007 → exec (.mod reg addr) s =
      .next ({ s with cache := { s.cache with
        brz := s.cache.brz.set i ⟨s.ruu.extractLsb' 0 2 ^^^ 1, s.acc⟩ } }.seqEnd s.lookahead)) ∧
    (0o020 ≤ n → n ≤ 0o027 → exec (.mod reg addr) s = .next ((s.setPageRegister i s.acc).seqEnd s.lookahead)) ∧
    (0o030 ≤ n → n ≤ 0o033 → exec (.mod reg addr) s =
      .next ({ s with pages := { s.pages with
        rz := setField s.pages.rz (8 * (n - 0o030)) (s.acc.extractLsb' 20 8) } }.seqEnd s.lookahead)) ∧
    (n = 0o036 → exec (.mod reg addr) s = .next ({ s with mgrp := s.acc }.seqEnd s.lookahead)) ∧
    (n = 0o037 → exec (.mod reg addr) s =
      .next ({ s with grp := s.grp &&& (s.acc ||| s.cfg.grpWired) }.seqEnd s.lookahead)) ∧
    (0o100 ≤ n → n ≤ 0o137 → exec (.mod reg addr) s =
      .next ({ s with ruu := setBit (setBit (setBit s.ruu 5 (f.getLsbD 0)) 0 (f.getLsbD 1)) 1 (f.getLsbD 2) }.seqEnd
        s.lookahead)) ∧
    ((0o010 ≤ n ∧ n ≤ 0o017) ∨ n = 0o034 ∨ n = 0o035 ∨ (0o040 ≤ n ∧ n ≤ 0o077) →
      exec (.mod reg addr) s = .next (s.seqEnd s.lookahead))

/-- R270, R274, R282: the read functions of `mod` in supervisor mode, and the functions that stop the run, which change
nothing but the advance (93_implementation_defined.md S2). That the stop keeps its own code where PC wraps, and that S2
is about the instruction's own part of the cycle, is the model's reading (notes/assumptions/11.md, 12.md). -/
def Obligations.SpecialRegisterRead : Prop :=
  ∀ (reg : BitVec 4) (addr : Addr) (s : State), s.Inv → s.sup = true →
    let f : BitVec 8 := (s.modified addr + s.getM reg.toNat).extractLsb' 0 8
    let n := f.toNat
    let i : Fin 8 := ⟨n % 8, by omega⟩
    let cls := (s.rau &&& 0o43) ||| 0o04
    (0o140 ≤ n → n ≤ 0o177 → exec (.mod reg addr) s =
      .next { s.stepOver s.lookahead with stopped := some .unimplemented }) ∧
    (0o200 ≤ n → n ≤ 0o207 → exec (.mod reg addr) s =
      .next ({ s with acc := s.cache.brz[i].data, rau := cls }.seqEnd s.lookahead)) ∧
    (n = 0o237 → exec (.mod reg addr) s = .next ({ s with acc := s.grp, rau := cls }.seqEnd s.lookahead)) ∧
    ((0o210 ≤ n ∧ n ≤ 0o236) ∨ 0o240 ≤ n →
      exec (.mod reg addr) s = .next ({ s with rau := cls }.seqEnd s.lookahead))

/-- R276, R277: `ext` in supervisor mode. The list of output events is the model's form of `ioWrite`
(notes/assumptions/13.md). -/
def Obligations.PortAccess : Prop :=
  ∀ (reg : BitVec 4) (addr : Addr) (s : State), s.Inv → s.sup = true →
    let port := (s.modified addr + s.getM reg.toNat) &&& 0o4177
    let cls := (s.rau &&& 0o43) ||| 0o04
    (port = 0o0030 → exec (.ext reg addr) s =
      .next ({ s with prp := s.prp &&& (s.acc.setWidth 24 ||| s.cfg.prpWired) }.seqEnd s.lookahead)) ∧
    (port = 0o0034 → exec (.ext reg addr) s = .next ({ s with mprp := s.acc.setWidth 24 }.seqEnd s.lookahead)) ∧
    (port = 0o4030 → exec (.ext reg addr) s =
      .next ({ s with acc := (s.prp &&& 0o77770000).setWidth 48, rau := cls }.seqEnd s.lookahead)) ∧
    (port = 0o4034 → exec (.ext reg addr) s =
      .next ({ s with acc := ((s.prp &&& 0o7777) ||| 0o377).setWidth 48, rau := cls }.seqEnd s.lookahead)) ∧
    (port ≠ 0o0030 → port ≠ 0o0034 → port.getLsbD 11 = false → exec (.ext reg addr) s =
      .next ({ s with ioOut := s.ioOut ++ [({ port := port, value := s.acc } : IoWrite)] }.seqEnd s.lookahead)) ∧
    (port ≠ 0o4030 → port ≠ 0o4034 → port.getLsbD 11 = true → exec (.ext reg addr) s =
      .next ({ s with acc := s.ioRead port, rau := cls }.seqEnd s.lookahead))

/-- R278, R321, R159: `ij` in supervisor mode. -/
def Obligations.ReturnInstruction : Prop :=
  ∀ (reg : BitVec 4) (addr : Addr) (s : State), s.Inv → s.sup = true →
    let saved := s.getM 0o27
    let t := s.putM 0o21 ((s.getM 0o21 &&& 0o20) ||| (saved &&& 0o2003))
    exec (.ij reg addr) s = .next { t with
      pc := s.getM (0o30 + reg.toNat % 4)
      ruu := setBit (setField (setBit s.ruu 8 (saved.getLsbD 8)) 2 (saved.extractLsb' 2 2)) 4
        (saved.getLsbD 4 && s.getM 0o20 != 0)
      prefetch := s.lookahead
      inDispatch := false }

/-- R262, R278: a return through ERET undoes any of the 26 extracodes (opcodes 0o50 to 0o77, 0o200, 0o210) that user mode
executed: the mode, the status bits it saved and the address of the next word come back. -/
def Obligations.ExtracodeThenReturn : Prop :=
  ∀ (i : Instr) (addr : Addr) (s t u : State),
    (0o50 ≤ i.opcode ∧ i.opcode ≤ 0o77) ∨ i.opcode = 0o200 ∨ i.opcode = 0o210 →
    s.Inv → s.sup = false → exec i s = .next t → exec (.ij 2 addr) t = .next u →
    u.sup = false ∧ u.pc = s.pc + 1 ∧ u.right = false ∧ u.psw = s.psw &&& 0o2003 ∧ u.acc = s.acc ∧ u.rmr = s.rmr ∧
    u.rau = s.rau ∧ u.mem = s.mem ∧ u.cache = s.cache ∧ ∀ r, r < 0o20 → r ≠ 0o16 → u.getM r = s.getM r

/-- R279: `stop` in supervisor mode, in user mode while `PSW.CHECK_HALT = 1`, and in user mode otherwise. That a stop
ends the cycle as completed, `haltEnd`, is the model's reading (notes/assumptions/11.md, 12.md). -/
def Obligations.StopInstruction : Prop :=
  ∀ (reg : BitVec 4) (addr : Addr) (s : State), s.Inv →
    (s.sup = true → exec (.stop reg addr) s = .next (s.haltEnd s.lookahead .halt)) ∧
    (s.sup = false → s.psw.getLsbD 3 = true → exec (.stop reg addr) s = .next (s.seqEnd s.lookahead)) ∧
    (s.sup = false → s.psw.getLsbD 3 = false → exec (.stop reg addr) s = .next
      ((((((s.putM 0o32 (s.pc + 1)).putM 0o27 ((s.psw &&& 0o2003) ||| (s.ruu &&& 0o14).setWidth 15)).putM 0o21
          0o2007).putM 0o16 (s.modified addr + s.getM reg.toNat)).setMode 0b01).jumpEnd s.lookahead 0o563))
end

