-- ==== Sys2Proof/Laws/Bits.lean ====
section
/-!
SUPPORT. The bits of `setBit` and `setField`: what each bit of the result is.
-/
namespace Sys2Proof.Machine

theorem getLsbD_setBit {w : Nat} (x : BitVec w) (i : Nat) (b : Bool) (j : Nat) (hj : j < w) :
    (setBit x i b).getLsbD j = if j = i then b else x.getLsbD j := by
  unfold setBit
  have key : ((1#w) <<< i).getLsbD j = decide (j = i) := by
    simp only [BitVec.getLsbD_shiftLeft, BitVec.getLsbD_one]
    by_cases h : j = i
    · subst h; simp [hj]; omega
    · by_cases h2 : j < i
      · simp [h2, h]
      · have : j - i ≠ 0 := by omega
        simp [h, this]
  cases b
  · simp only [Bool.false_eq_true, if_false, BitVec.getLsbD_and, BitVec.getLsbD_not, key, hj, decide_true, Bool.true_and]
    by_cases h : j = i <;> simp [h]
  · simp only [if_true, BitVec.getLsbD_or, key]
    by_cases h : j = i <;> simp [h]

@[simp] theorem setBit_self {w : Nat} (x : BitVec w) (i : Nat) (b : Bool) (hi : i < w) :
    (setBit x i b).getLsbD i = b := by simp [getLsbD_setBit x i b i hi]

theorem setBit_other {w : Nat} (x : BitVec w) (i : Nat) (b : Bool) (j : Nat) (h : j ≠ i) :
    (setBit x i b).getLsbD j = x.getLsbD j := by
  by_cases hj : j < w
  · simp [getLsbD_setBit x i b j hj, h]
  · simp [BitVec.getLsbD_of_ge _ _ (by omega : w ≤ j)]

theorem getLsbD_setField {w n : Nat} (x : BitVec w) (lo : Nat) (v : BitVec n) (hw : lo + n ≤ w) (j : Nat) (hj : j < w) :
    (setField x lo v).getLsbD j = if lo ≤ j ∧ j < lo + n then v.getLsbD (j - lo) else x.getLsbD j := by
  unfold setField
  simp only [BitVec.getLsbD_or, BitVec.getLsbD_and, BitVec.getLsbD_not, BitVec.getLsbD_shiftLeft,
    BitVec.getLsbD_setWidth, BitVec.getLsbD_allOnes]
  by_cases h1 : j < lo
  · have : ¬ (lo ≤ j ∧ j < lo + n) := by omega
    simp [h1, this, hj]
  · by_cases h2 : j < lo + n
    · have h3 : lo ≤ j ∧ j < lo + n := by omega
      have h4 : j - lo < n := by omega
      have h5 : j - lo < w := by omega
      simp [h1, h3, h4, h5, hj]
    · have h3 : ¬ (lo ≤ j ∧ j < lo + n) := by omega
      have h4 : ¬ (j - lo < n) := by omega
      have h6 : v.getLsbD (j - lo) = false := BitVec.getLsbD_of_ge _ _ (by omega)
      simp [h1, h3, h4, h6, hj]

/-- The mode after `setMode`. -/
theorem State.sup_setMode (s : State) (k : BitVec 2) : (s.setMode k).sup = (k.getLsbD 0 || k.getLsbD 1) := by
  unfold State.sup State.setMode
  rw [getLsbD_setField _ _ _ (by omega) 2 (by omega), getLsbD_setField _ _ _ (by omega) 3 (by omega)]
  simp

@[simp] theorem State.right_setRight (s : State) (b : Bool) : (s.setRight b).right = b := setBit_self _ _ _ (by omega)

@[simp] theorem State.sup_setRight (s : State) (b : Bool) : (s.setRight b).sup = s.sup := by
  unfold State.sup State.setRight; rw [setBit_other _ 8 _ 2 (by omega), setBit_other _ 8 _ 3 (by omega)]

@[simp] theorem State.sup_setModPending (s : State) (b : Bool) : (s.setModPending b).sup = s.sup := by
  unfold State.sup State.setModPending; rw [setBit_other _ 4 _ 2 (by omega), setBit_other _ 4 _ 3 (by omega)]

@[simp] theorem State.right_setModPending (s : State) (b : Bool) : (s.setModPending b).right = s.right := by
  unfold State.right State.setModPending; exact setBit_other _ _ _ 8 (by omega)

@[simp] theorem State.modPending_setRight (s : State) (b : Bool) : (s.setRight b).modPending = s.modPending := by
  unfold State.modPending State.setRight; exact setBit_other _ _ _ 4 (by omega)

@[simp] theorem State.modPending_setModPending (s : State) (b : Bool) : (s.setModPending b).modPending = b :=
  setBit_self _ _ _ (by omega)

@[simp] theorem State.storeTag_setRight (s : State) (b : Bool) : (s.setRight b).storeTag = s.storeTag := by
  unfold State.storeTag State.setRight
  congr 1
  ext i hi
  simp only [BitVec.getElem_extractLsb', Nat.zero_add]
  exact setBit_other _ _ _ i (by omega)

end Sys2Proof.Machine
end

