-- ==== Sys2Proof/Laws/Memory.lean ====
section
/-!
SUPPORT. Physical memory: read after write, the canonical form, and the range of the listed addresses. Every memory
operation of the machine is a `Memory.write`, so these are the laws of all of them.
-/
namespace Sys2Proof.Machine

/-- Reading the written word gives the value written. -/
@[simp] theorem Memory.read_write_same (m : List Cell) (p : Nat) (w : TWord) (h : Memory.wf m = true) :
    Memory.read (Memory.write m p w) p = w := by
  induction m with
  | nil => by_cases hw : w = Memory.blank <;> simp [Memory.write, Memory.read, hw]
  | cons c rest ih =>
    obtain ⟨a, x⟩ := c
    simp only [Memory.wf, Bool.and_eq_true, decide_eq_true_eq, List.all_eq_true] at h
    have fresh : ∀ q, q ≤ a → Memory.read rest q = Memory.blank := by
      intro q hq
      have hr := h.1.2
      clear ih h
      induction rest with
      | nil => rfl
      | cons d rest ih =>
        obtain ⟨b, y⟩ := d
        have hb := hr (b, y) (by simp)
        simp only [Memory.read]
        rw [if_neg (by simp at hb; omega)]
        exact ih fun c hc => hr c (by simp [hc])
    simp only [Memory.write]
    split_ifs with h1 h2 h3 h4
    · subst h2; simp only [Memory.read]; rw [if_neg (by omega)]; exact fresh p (by omega)
    · simp [Memory.read]
    · subst h4; subst h3; exact fresh p (by omega)
    · simp [Memory.read]
    · simp only [Memory.read]; rw [if_neg h3]; exact ih h.2

/-- A write leaves every other word alone. -/
theorem Memory.read_write_other (m : List Cell) (p q : Nat) (w : TWord) (hpq : q ≠ p) (h : Memory.wf m = true) :
    Memory.read (Memory.write m p w) q = Memory.read m q := by
  induction m with
  | nil => by_cases hw : w = Memory.blank <;> simp [Memory.write, Memory.read, hw, hpq]
  | cons c rest ih =>
    obtain ⟨a, x⟩ := c
    have hrest : Memory.wf rest = true := by
      simp only [Memory.wf, Bool.and_eq_true] at h; exact h.2
    simp only [Memory.write]
    split_ifs with h1 h2 h3 h4
    · rfl
    · simp [Memory.read, hpq]
    · subst h3; simp [Memory.read, hpq]
    · subst h3; simp [Memory.read, hpq]
    · simp only [Memory.read, ih hrest]

/-- The addresses listed after a write. -/
theorem Memory.mem_write (m : List Cell) (p : Nat) (w : TWord) (c : Cell) (h : c ∈ Memory.write m p w) :
    c ∈ m ∨ c = (p, w) := by
  induction m with
  | nil =>
    by_cases hw : w = Memory.blank
    · simp [Memory.write, hw] at h
    · simp [Memory.write, hw] at h; exact .inr h
  | cons d rest ih =>
    obtain ⟨a, x⟩ := d
    simp only [Memory.write] at h
    split_ifs at h with h1 h2 h3 h4
    · exact .inl h
    · simp only [List.mem_cons] at h ⊢; tauto
    · exact .inl (List.mem_cons_of_mem _ h)
    · simp only [List.mem_cons] at h ⊢; tauto
    · simp only [List.mem_cons] at h ⊢
      rcases h with h | h
      · exact .inl (.inl h)
      · rcases ih h with h | h
        · exact .inl (.inr h)
        · exact .inr h

/-- A write keeps the canonical form. -/
theorem Memory.wf_write (m : List Cell) (p : Nat) (w : TWord) (h : Memory.wf m = true) : Memory.wf (Memory.write m p w) = true := by
  induction m with
  | nil => by_cases hw : w = Memory.blank <;> simp [Memory.write, Memory.wf, hw]
  | cons c rest ih =>
    obtain ⟨a, x⟩ := c
    have h0 := h
    simp only [Memory.wf, Bool.and_eq_true, decide_eq_true_eq, List.all_eq_true] at h
    simp only [Memory.write]
    split_ifs with h1 h2 h3 h4
    · exact h0
    · simp only [Memory.wf, Bool.and_eq_true, decide_eq_true_eq, List.all_eq_true, List.mem_cons]
      refine ⟨⟨h2, ?_⟩, h⟩
      rintro c (rfl | hc)
      · exact h1
      · exact lt_trans h1 (h.1.2 c hc)
    · exact h.2
    · subst h3
      simp only [Memory.wf, Bool.and_eq_true, decide_eq_true_eq, List.all_eq_true]
      exact ⟨⟨h4, h.1.2⟩, h.2⟩
    · simp only [Memory.wf, Bool.and_eq_true, decide_eq_true_eq, List.all_eq_true]
      refine ⟨⟨h.1.1, ?_⟩, ih h.2⟩
      intro c hc
      rcases Memory.mem_write rest p w c hc with hc | rfl
      · exact h.1.2 c hc
      · show a < p
        omega

/-- The word at an address that is not listed. -/
theorem Memory.read_unlisted (m : List Cell) (p : Nat) (h : ∀ c ∈ m, c.1 ≠ p) : Memory.read m p = Memory.blank := by
  induction m with
  | nil => rfl
  | cons d rest ih =>
    obtain ⟨a, x⟩ := d
    have := h (a, x) (by simp)
    simp only [Memory.read]
    rw [if_neg (by simp at this; omega)]
    exact ih fun c hc => h c (by simp [hc])

/-- The memory of the state right after reset is in the canonical form. -/
theorem Memory.wf_reset : Memory.wf State.reset.mem = true := rfl

/-- A write within `MEM_WORDS` keeps every listed address in that range. -/
theorem Memory.range_write (m : List Cell) (p : Nat) (w : TWord) (n : Nat) (h : ∀ c ∈ m, c.1 < n) (hn : p < n) :
    ∀ c ∈ Memory.write m p w, c.1 < n := by
  intro c hc
  rcases Memory.mem_write m p w c hc with hc | rfl
  · exact h c hc
  · exact hn

end Sys2Proof.Machine
end

