-- ==== Sys2Proof/Laws/Recency.lean ====
section
/-!
SUPPORT. The tournament tables (R58, R68, R74): what `setWins` does to `beats`, that it keeps the order, and that an order
has exactly one victim.
-/
namespace Sys2Proof.Machine.Recency

/-- Of two slots exactly one beats the other. -/
theorem beats_not {w : Nat} (row : List Nat) (t : BitVec w) (i j : Nat) (h : i ≠ j) :
    beats row t j i = !beats row t i j := by
  unfold beats
  by_cases hij : i < j
  · rw [if_neg (by omega), if_pos hij]
  · rw [if_pos (by omega), if_neg hij, Bool.not_not]

theorem bits8 : ∀ k i j : Fin 8, i.val < j.val →
    idx row8 i j < 28 ∧ (wonBits 28 row8 8 k).getLsbD (idx row8 i j) = decide (i = k) ∧
    (lostBits 28 row8 8 k).getLsbD (idx row8 i j) = decide (j = k) := by decide

theorem bits4 : ∀ k i j : Fin 4, i.val < j.val →
    idx row4 i j < 6 ∧ (wonBits 6 row4 4 k).getLsbD (idx row4 i j) = decide (i = k) ∧
    (lostBits 6 row4 4 k).getLsbD (idx row4 i j) = decide (j = k) := by decide

/-- `setWins(k)`: `k` beats every other slot, and the other pairs are as before (R58). -/
theorem beats_setWins8 (t : BitVec 28) (k i j : Fin 8) (h : i ≠ j) :
    beats row8 (setWins row8 8 t k) i j = if i = k then true else if j = k then false else beats row8 t i j := by
  unfold beats setWins
  by_cases hij : i.val < j.val
  · obtain ⟨hb, hw, hl⟩ := bits8 k i j hij
    rw [if_pos hij, if_pos hij]
    simp only [BitVec.getLsbD_and, BitVec.getLsbD_or, BitVec.getLsbD_not, hw, hl, hb, decide_true, Bool.true_and]
    by_cases h1 : i = k <;> by_cases h2 : j = k <;> simp [h1, h2]
    exact absurd (h1.trans h2.symm) h
  · have hji : j.val < i.val := by omega
    obtain ⟨hb, hw, hl⟩ := bits8 k j i hji
    rw [if_neg hij, if_neg hij]
    simp only [BitVec.getLsbD_and, BitVec.getLsbD_or, BitVec.getLsbD_not, hw, hl, hb, decide_true, Bool.true_and]
    by_cases h1 : i = k <;> by_cases h2 : j = k <;> simp [h1, h2]

/-- The same for the prefetch table (R74). -/
theorem beats_setWins4 (t : BitVec 6) (k i j : Fin 4) (h : i ≠ j) :
    beats row4 (setWins row4 4 t k) i j = if i = k then true else if j = k then false else beats row4 t i j := by
  unfold beats setWins
  by_cases hij : i.val < j.val
  · obtain ⟨hb, hw, hl⟩ := bits4 k i j hij
    rw [if_pos hij, if_pos hij]
    simp only [BitVec.getLsbD_and, BitVec.getLsbD_or, BitVec.getLsbD_not, hw, hl, hb, decide_true, Bool.true_and]
    by_cases h1 : i = k <;> by_cases h2 : j = k <;> simp [h1, h2]
    exact absurd (h1.trans h2.symm) h
  · have hji : j.val < i.val := by omega
    obtain ⟨hb, hw, hl⟩ := bits4 k j i hji
    rw [if_neg hij, if_neg hij]
    simp only [BitVec.getLsbD_and, BitVec.getLsbD_or, BitVec.getLsbD_not, hw, hl, hb, decide_true, Bool.true_and]
    by_cases h1 : i = k <;> by_cases h2 : j = k <;> simp [h1, h2]

/-- `setWins` keeps the order (R68). -/
theorem isOrder_setWins8 (t : BitVec 28) (k : Fin 8) (h : isOrder row8 8 t) : isOrder row8 8 (setWins row8 8 t k) := by
  intro a b c hab hbc hac h1 h2
  rw [beats_setWins8 t k _ _ hab] at h1
  rw [beats_setWins8 t k _ _ hbc] at h2
  rw [beats_setWins8 t k _ _ hac]
  by_cases ha : a = k
  · simp [ha]
  · by_cases hb : b = k
    · simp [ha, hb] at h1
    · by_cases hc : c = k
      · simp [hb, hc] at h2
      · simp only [ha, hb, hc, if_false] at h1 h2 ⊢
        exact h a b c hab hbc hac h1 h2

theorem isOrder_setWins4 (t : BitVec 6) (k : Fin 4) (h : isOrder row4 4 t) : isOrder row4 4 (setWins row4 4 t k) := by
  intro a b c hab hbc hac h1 h2
  rw [beats_setWins4 t k _ _ hab] at h1
  rw [beats_setWins4 t k _ _ hbc] at h2
  rw [beats_setWins4 t k _ _ hac]
  by_cases ha : a = k
  · simp [ha]
  · by_cases hb : b = k
    · simp [ha, hb] at h1
    · by_cases hc : c = k
      · simp [hb, hc] at h2
      · simp only [ha, hb, hc, if_false] at h1 h2 ⊢
        exact h a b c hab hbc hac h1 h2

theorem losesToAll_iff {w : Nat} (row : List Nat) (size : Nat) (t : BitVec w) (k : Nat) :
    losesToAll row size t k = true ↔ ∀ j, j < size → j ≠ k → beats row t j k = true := by
  unfold losesToAll
  simp only [List.all_eq_true, List.mem_range, Bool.or_eq_true, beq_iff_eq]
  constructor
  · intro h j hj hk
    rcases h j hj with h | h
    · exact absurd h hk
    · exact h
  · intro h j hj
    by_cases hk : j = k
    · exact .inl hk
    · exact .inr (h j hj hk)

/-- An order has a slot that loses to all others. -/
theorem exists_loser {w : Nat} (row : List Nat) (size : Nat) (t : BitVec w) (hs : 0 < size) (h : isOrder row size t) :
    ∃ k : Fin size, losesToAll row size t k = true := by
  suffices ∀ n, n ≤ size → 0 < n → ∃ k : Fin size, k.val < n ∧
      ∀ j : Fin size, j.val < n → j ≠ k → beats row t j k = true by
    obtain ⟨k, -, hk⟩ := this size le_rfl hs
    exact ⟨k, (losesToAll_iff row size t k).2 fun j hj hne => hk ⟨j, hj⟩ hj (by intro e; exact hne (congrArg Fin.val e))⟩
  intro n hn h0
  induction n with
  | zero => omega
  | succ n ih =>
    rcases Nat.eq_zero_or_pos n with rfl | hpos
    · refine ⟨⟨0, hs⟩, by simp, ?_⟩
      intro j hj hne
      exact absurd (Fin.ext (by show j.val = 0; omega)) hne
    · obtain ⟨k, hk, hall⟩ := ih (by omega) hpos
      let x : Fin size := ⟨n, by omega⟩
      have hxk : x ≠ k := by intro e; have := congrArg Fin.val e; simp only [x] at this; omega
      by_cases hb : beats row t x k = true
      · refine ⟨k, by omega, fun j hj hne => ?_⟩
        by_cases hjx : j = x
        · rw [hjx]; exact hb
        · refine hall j ?_ hne
          have : j.val ≠ n := fun e => hjx (Fin.ext e)
          omega
      · have hkx : beats row t k x = true := by
          rw [beats_not row t x k (fun e => hxk (Fin.ext e))]; simp [hb]
        refine ⟨x, by show n < n + 1; omega, fun j hj hne => ?_⟩
        by_cases hjk : j = k
        · rw [hjk]; exact hkx
        · have hjn : j.val < n := by
            have : j.val ≠ n := fun e => hne (Fin.ext e)
            omega
          exact h j k x hjk (fun e => hxk e.symm) hne (hall j hjn hjk) hkx

/-- At most one slot loses to all others. -/
theorem loser_unique {w : Nat} (row : List Nat) (size : Nat) (t : BitVec w) (i j : Fin size)
    (hi : losesToAll row size t i = true) (hj : losesToAll row size t j = true) : i = j := by
  by_contra h
  have hne : i.val ≠ j.val := fun e => h (Fin.ext e)
  have h1 := (losesToAll_iff row size t i).1 hi j j.isLt (Ne.symm hne)
  have h2 := (losesToAll_iff row size t j).1 hj i i.isLt hne
  rw [beats_not row t i j hne, h2] at h1
  simp at h1

theorem victim8_iff (t : BitVec 28) (k : Fin 8) : victim8 t = some k ↔ losesToAll row8 8 t k = true := by
  unfold victim8
  constructor
  · intro h; exact List.find?_some (p := fun k : Fin 8 => losesToAll row8 8 t k) h
  · intro h
    have hm : k ∈ ([0, 1, 2, 3, 4, 5, 6, 7] : List (Fin 8)) := by fin_cases k <;> simp
    cases hf : List.find? (fun k : Fin 8 => losesToAll row8 8 t k) ([0, 1, 2, 3, 4, 5, 6, 7] : List (Fin 8)) with
    | none => exact absurd h (by simpa using List.find?_eq_none.1 hf k hm)
    | some j => rw [loser_unique row8 8 t j k (List.find?_some (p := fun k : Fin 8 => losesToAll row8 8 t k) hf) h]

theorem victim4_iff (t : BitVec 6) (k : Fin 4) : victim4 t = some k ↔ losesToAll row4 4 t k = true := by
  unfold victim4
  constructor
  · intro h; exact List.find?_some (p := fun k : Fin 4 => losesToAll row4 4 t k) h
  · intro h
    have hm : k ∈ ([0, 1, 2, 3] : List (Fin 4)) := by fin_cases k <;> simp
    cases hf : List.find? (fun k : Fin 4 => losesToAll row4 4 t k) ([0, 1, 2, 3] : List (Fin 4)) with
    | none => exact absurd h (by simpa using List.find?_eq_none.1 hf k hm)
    | some j => rw [loser_unique row4 4 t j k (List.find?_some (p := fun k : Fin 4 => losesToAll row4 4 t k) hf) h]

/-- With an order, `victim()` is defined (R68). -/
theorem exists_victim8 (t : BitVec 28) (h : isOrder row8 8 t) : ∃ k, victim8 t = some k := by
  obtain ⟨k, hk⟩ := exists_loser row8 8 t (by omega) h
  exact ⟨k, (victim8_iff t k).2 hk⟩

theorem exists_victim4 (t : BitVec 6) (h : isOrder row4 4 t) : ∃ k, victim4 t = some k := by
  obtain ⟨k, hk⟩ := exists_loser row4 4 t (by omega) h
  exact ⟨k, (victim4_iff t k).2 hk⟩

/-- In the table 0 a slot beats the slots of lower numbers. -/
theorem beats_zero {w : Nat} (row : List Nat) (i j : Nat) : beats row (0 : BitVec w) i j = !decide (i < j) := by
  unfold beats
  by_cases h : i < j <;> simp [h]

/-- The table 0 encodes the order 7 > 6 > … > 0 (R68). -/
theorem isOrder_zero (w : Nat) (row : List Nat) (size : Nat) : isOrder row size (0 : BitVec w) := by
  intro a b c _ _ hac h1 h2
  rw [beats_zero] at h1 h2 ⊢
  simp only [Bool.not_eq_true', decide_eq_false_iff_not] at h1 h2 ⊢
  omega

end Sys2Proof.Machine.Recency
end

