-- ==== Sys2Proof/Laws/State.lean ====
section
/-!
SUPPORT. One lemma for each field of State and each plain update, true by `rfl`: no later proof unfolds an update.
-/
namespace Sys2Proof.Machine

/-! ### `setRight` -/

@[simp] theorem State.setRight_acc (s : State) (b : Bool) : (s.setRight b).acc = s.acc := rfl
@[simp] theorem State.setRight_rmr (s : State) (b : Bool) : (s.setRight b).rmr = s.rmr := rfl
@[simp] theorem State.setRight_rau (s : State) (b : Bool) : (s.setRight b).rau = s.rau := rfl
@[simp] theorem State.setRight_ruu (s : State) (b : Bool) : (s.setRight b).ruu = setBit s.ruu 8 b := rfl
@[simp] theorem State.setRight_pc (s : State) (b : Bool) : (s.setRight b).pc = s.pc := rfl
@[simp] theorem State.setRight_m (s : State) (b : Bool) : (s.setRight b).m = s.m := rfl
@[simp] theorem State.setRight_ibp (s : State) (b : Bool) : (s.setRight b).ibp = s.ibp := rfl
@[simp] theorem State.setRight_dwp (s : State) (b : Bool) : (s.setRight b).dwp = s.dwp := rfl
@[simp] theorem State.setRight_grp (s : State) (b : Bool) : (s.setRight b).grp = s.grp := rfl
@[simp] theorem State.setRight_mgrp (s : State) (b : Bool) : (s.setRight b).mgrp = s.mgrp := rfl
@[simp] theorem State.setRight_prp (s : State) (b : Bool) : (s.setRight b).prp = s.prp := rfl
@[simp] theorem State.setRight_mprp (s : State) (b : Bool) : (s.setRight b).mprp = s.mprp := rfl
@[simp] theorem State.setRight_cache (s : State) (b : Bool) : (s.setRight b).cache = s.cache := rfl
@[simp] theorem State.setRight_prefetch (s : State) (b : Bool) : (s.setRight b).prefetch = s.prefetch := rfl
@[simp] theorem State.setRight_pages (s : State) (b : Bool) : (s.setRight b).pages = s.pages := rfl
@[simp] theorem State.setRight_mem (s : State) (b : Bool) : (s.setRight b).mem = s.mem := rfl
@[simp] theorem State.setRight_inDispatch (s : State) (b : Bool) : (s.setRight b).inDispatch = s.inDispatch := rfl
@[simp] theorem State.setRight_stopped (s : State) (b : Bool) : (s.setRight b).stopped = s.stopped := rfl
@[simp] theorem State.setRight_resuming (s : State) (b : Bool) : (s.setRight b).resuming = s.resuming := rfl
@[simp] theorem State.setRight_ioOut (s : State) (b : Bool) : (s.setRight b).ioOut = s.ioOut := rfl
@[simp] theorem State.setRight_draws (s : State) (b : Bool) : (s.setRight b).draws = s.draws := rfl
@[simp] theorem State.setRight_host (s : State) (b : Bool) : (s.setRight b).host = s.host := rfl
@[simp] theorem State.setRight_cfg (s : State) (b : Bool) : (s.setRight b).cfg = s.cfg := rfl

/-! ### `setModPending` -/

@[simp] theorem State.setModPending_acc (s : State) (b : Bool) : (s.setModPending b).acc = s.acc := rfl
@[simp] theorem State.setModPending_rmr (s : State) (b : Bool) : (s.setModPending b).rmr = s.rmr := rfl
@[simp] theorem State.setModPending_rau (s : State) (b : Bool) : (s.setModPending b).rau = s.rau := rfl
@[simp] theorem State.setModPending_ruu (s : State) (b : Bool) : (s.setModPending b).ruu = setBit s.ruu 4 b := rfl
@[simp] theorem State.setModPending_pc (s : State) (b : Bool) : (s.setModPending b).pc = s.pc := rfl
@[simp] theorem State.setModPending_m (s : State) (b : Bool) : (s.setModPending b).m = s.m := rfl
@[simp] theorem State.setModPending_ibp (s : State) (b : Bool) : (s.setModPending b).ibp = s.ibp := rfl
@[simp] theorem State.setModPending_dwp (s : State) (b : Bool) : (s.setModPending b).dwp = s.dwp := rfl
@[simp] theorem State.setModPending_grp (s : State) (b : Bool) : (s.setModPending b).grp = s.grp := rfl
@[simp] theorem State.setModPending_mgrp (s : State) (b : Bool) : (s.setModPending b).mgrp = s.mgrp := rfl
@[simp] theorem State.setModPending_prp (s : State) (b : Bool) : (s.setModPending b).prp = s.prp := rfl
@[simp] theorem State.setModPending_mprp (s : State) (b : Bool) : (s.setModPending b).mprp = s.mprp := rfl
@[simp] theorem State.setModPending_cache (s : State) (b : Bool) : (s.setModPending b).cache = s.cache := rfl
@[simp] theorem State.setModPending_prefetch (s : State) (b : Bool) : (s.setModPending b).prefetch = s.prefetch := rfl
@[simp] theorem State.setModPending_pages (s : State) (b : Bool) : (s.setModPending b).pages = s.pages := rfl
@[simp] theorem State.setModPending_mem (s : State) (b : Bool) : (s.setModPending b).mem = s.mem := rfl
@[simp] theorem State.setModPending_inDispatch (s : State) (b : Bool) : (s.setModPending b).inDispatch = s.inDispatch := rfl
@[simp] theorem State.setModPending_stopped (s : State) (b : Bool) : (s.setModPending b).stopped = s.stopped := rfl
@[simp] theorem State.setModPending_resuming (s : State) (b : Bool) : (s.setModPending b).resuming = s.resuming := rfl
@[simp] theorem State.setModPending_ioOut (s : State) (b : Bool) : (s.setModPending b).ioOut = s.ioOut := rfl
@[simp] theorem State.setModPending_draws (s : State) (b : Bool) : (s.setModPending b).draws = s.draws := rfl
@[simp] theorem State.setModPending_host (s : State) (b : Bool) : (s.setModPending b).host = s.host := rfl
@[simp] theorem State.setModPending_cfg (s : State) (b : Bool) : (s.setModPending b).cfg = s.cfg := rfl

/-! ### `setMode` -/

@[simp] theorem State.setMode_acc (s : State) (k : BitVec 2) : (s.setMode k).acc = s.acc := rfl
@[simp] theorem State.setMode_rmr (s : State) (k : BitVec 2) : (s.setMode k).rmr = s.rmr := rfl
@[simp] theorem State.setMode_rau (s : State) (k : BitVec 2) : (s.setMode k).rau = s.rau := rfl
@[simp] theorem State.setMode_ruu (s : State) (k : BitVec 2) : (s.setMode k).ruu = setField s.ruu 2 k := rfl
@[simp] theorem State.setMode_pc (s : State) (k : BitVec 2) : (s.setMode k).pc = s.pc := rfl
@[simp] theorem State.setMode_m (s : State) (k : BitVec 2) : (s.setMode k).m = s.m := rfl
@[simp] theorem State.setMode_ibp (s : State) (k : BitVec 2) : (s.setMode k).ibp = s.ibp := rfl
@[simp] theorem State.setMode_dwp (s : State) (k : BitVec 2) : (s.setMode k).dwp = s.dwp := rfl
@[simp] theorem State.setMode_grp (s : State) (k : BitVec 2) : (s.setMode k).grp = s.grp := rfl
@[simp] theorem State.setMode_mgrp (s : State) (k : BitVec 2) : (s.setMode k).mgrp = s.mgrp := rfl
@[simp] theorem State.setMode_prp (s : State) (k : BitVec 2) : (s.setMode k).prp = s.prp := rfl
@[simp] theorem State.setMode_mprp (s : State) (k : BitVec 2) : (s.setMode k).mprp = s.mprp := rfl
@[simp] theorem State.setMode_cache (s : State) (k : BitVec 2) : (s.setMode k).cache = s.cache := rfl
@[simp] theorem State.setMode_prefetch (s : State) (k : BitVec 2) : (s.setMode k).prefetch = s.prefetch := rfl
@[simp] theorem State.setMode_pages (s : State) (k : BitVec 2) : (s.setMode k).pages = s.pages := rfl
@[simp] theorem State.setMode_mem (s : State) (k : BitVec 2) : (s.setMode k).mem = s.mem := rfl
@[simp] theorem State.setMode_inDispatch (s : State) (k : BitVec 2) : (s.setMode k).inDispatch = s.inDispatch := rfl
@[simp] theorem State.setMode_stopped (s : State) (k : BitVec 2) : (s.setMode k).stopped = s.stopped := rfl
@[simp] theorem State.setMode_resuming (s : State) (k : BitVec 2) : (s.setMode k).resuming = s.resuming := rfl
@[simp] theorem State.setMode_ioOut (s : State) (k : BitVec 2) : (s.setMode k).ioOut = s.ioOut := rfl
@[simp] theorem State.setMode_draws (s : State) (k : BitVec 2) : (s.setMode k).draws = s.draws := rfl
@[simp] theorem State.setMode_host (s : State) (k : BitVec 2) : (s.setMode k).host = s.host := rfl
@[simp] theorem State.setMode_cfg (s : State) (k : BitVec 2) : (s.setMode k).cfg = s.cfg := rfl

/-! ### `setClass` -/

@[simp] theorem State.setClass_acc (s : State) (c : BitVec 6) : (s.setClass c).acc = s.acc := rfl
@[simp] theorem State.setClass_rmr (s : State) (c : BitVec 6) : (s.setClass c).rmr = s.rmr := rfl
@[simp] theorem State.setClass_rau (s : State) (c : BitVec 6) : (s.setClass c).rau = (s.rau &&& 0o43) ||| c := rfl
@[simp] theorem State.setClass_ruu (s : State) (c : BitVec 6) : (s.setClass c).ruu = s.ruu := rfl
@[simp] theorem State.setClass_pc (s : State) (c : BitVec 6) : (s.setClass c).pc = s.pc := rfl
@[simp] theorem State.setClass_m (s : State) (c : BitVec 6) : (s.setClass c).m = s.m := rfl
@[simp] theorem State.setClass_ibp (s : State) (c : BitVec 6) : (s.setClass c).ibp = s.ibp := rfl
@[simp] theorem State.setClass_dwp (s : State) (c : BitVec 6) : (s.setClass c).dwp = s.dwp := rfl
@[simp] theorem State.setClass_grp (s : State) (c : BitVec 6) : (s.setClass c).grp = s.grp := rfl
@[simp] theorem State.setClass_mgrp (s : State) (c : BitVec 6) : (s.setClass c).mgrp = s.mgrp := rfl
@[simp] theorem State.setClass_prp (s : State) (c : BitVec 6) : (s.setClass c).prp = s.prp := rfl
@[simp] theorem State.setClass_mprp (s : State) (c : BitVec 6) : (s.setClass c).mprp = s.mprp := rfl
@[simp] theorem State.setClass_cache (s : State) (c : BitVec 6) : (s.setClass c).cache = s.cache := rfl
@[simp] theorem State.setClass_prefetch (s : State) (c : BitVec 6) : (s.setClass c).prefetch = s.prefetch := rfl
@[simp] theorem State.setClass_pages (s : State) (c : BitVec 6) : (s.setClass c).pages = s.pages := rfl
@[simp] theorem State.setClass_mem (s : State) (c : BitVec 6) : (s.setClass c).mem = s.mem := rfl
@[simp] theorem State.setClass_inDispatch (s : State) (c : BitVec 6) : (s.setClass c).inDispatch = s.inDispatch := rfl
@[simp] theorem State.setClass_stopped (s : State) (c : BitVec 6) : (s.setClass c).stopped = s.stopped := rfl
@[simp] theorem State.setClass_resuming (s : State) (c : BitVec 6) : (s.setClass c).resuming = s.resuming := rfl
@[simp] theorem State.setClass_ioOut (s : State) (c : BitVec 6) : (s.setClass c).ioOut = s.ioOut := rfl
@[simp] theorem State.setClass_draws (s : State) (c : BitVec 6) : (s.setClass c).draws = s.draws := rfl
@[simp] theorem State.setClass_host (s : State) (c : BitVec 6) : (s.setClass c).host = s.host := rfl
@[simp] theorem State.setClass_cfg (s : State) (c : BitVec 6) : (s.setClass c).cfg = s.cfg := rfl

/-! ### `setLogical` -/

@[simp] theorem State.setLogical_acc (s : State) : s.setLogical.acc = s.acc := rfl
@[simp] theorem State.setLogical_rmr (s : State) : s.setLogical.rmr = s.rmr := rfl
@[simp] theorem State.setLogical_rau (s : State) : s.setLogical.rau = (s.rau &&& 0o43) ||| 0o04 := rfl
@[simp] theorem State.setLogical_ruu (s : State) : s.setLogical.ruu = s.ruu := rfl
@[simp] theorem State.setLogical_pc (s : State) : s.setLogical.pc = s.pc := rfl
@[simp] theorem State.setLogical_m (s : State) : s.setLogical.m = s.m := rfl
@[simp] theorem State.setLogical_ibp (s : State) : s.setLogical.ibp = s.ibp := rfl
@[simp] theorem State.setLogical_dwp (s : State) : s.setLogical.dwp = s.dwp := rfl
@[simp] theorem State.setLogical_grp (s : State) : s.setLogical.grp = s.grp := rfl
@[simp] theorem State.setLogical_mgrp (s : State) : s.setLogical.mgrp = s.mgrp := rfl
@[simp] theorem State.setLogical_prp (s : State) : s.setLogical.prp = s.prp := rfl
@[simp] theorem State.setLogical_mprp (s : State) : s.setLogical.mprp = s.mprp := rfl
@[simp] theorem State.setLogical_cache (s : State) : s.setLogical.cache = s.cache := rfl
@[simp] theorem State.setLogical_prefetch (s : State) : s.setLogical.prefetch = s.prefetch := rfl
@[simp] theorem State.setLogical_pages (s : State) : s.setLogical.pages = s.pages := rfl
@[simp] theorem State.setLogical_mem (s : State) : s.setLogical.mem = s.mem := rfl
@[simp] theorem State.setLogical_inDispatch (s : State) : s.setLogical.inDispatch = s.inDispatch := rfl
@[simp] theorem State.setLogical_stopped (s : State) : s.setLogical.stopped = s.stopped := rfl
@[simp] theorem State.setLogical_resuming (s : State) : s.setLogical.resuming = s.resuming := rfl
@[simp] theorem State.setLogical_ioOut (s : State) : s.setLogical.ioOut = s.ioOut := rfl
@[simp] theorem State.setLogical_draws (s : State) : s.setLogical.draws = s.draws := rfl
@[simp] theorem State.setLogical_host (s : State) : s.setLogical.host = s.host := rfl
@[simp] theorem State.setLogical_cfg (s : State) : s.setLogical.cfg = s.cfg := rfl

/-! ### `setMultiplicative` -/

@[simp] theorem State.setMultiplicative_acc (s : State) : s.setMultiplicative.acc = s.acc := rfl
@[simp] theorem State.setMultiplicative_rmr (s : State) : s.setMultiplicative.rmr = s.rmr := rfl
@[simp] theorem State.setMultiplicative_rau (s : State) : s.setMultiplicative.rau = (s.rau &&& 0o43) ||| 0o10 := rfl
@[simp] theorem State.setMultiplicative_ruu (s : State) : s.setMultiplicative.ruu = s.ruu := rfl
@[simp] theorem State.setMultiplicative_pc (s : State) : s.setMultiplicative.pc = s.pc := rfl
@[simp] theorem State.setMultiplicative_m (s : State) : s.setMultiplicative.m = s.m := rfl
@[simp] theorem State.setMultiplicative_ibp (s : State) : s.setMultiplicative.ibp = s.ibp := rfl
@[simp] theorem State.setMultiplicative_dwp (s : State) : s.setMultiplicative.dwp = s.dwp := rfl
@[simp] theorem State.setMultiplicative_grp (s : State) : s.setMultiplicative.grp = s.grp := rfl
@[simp] theorem State.setMultiplicative_mgrp (s : State) : s.setMultiplicative.mgrp = s.mgrp := rfl
@[simp] theorem State.setMultiplicative_prp (s : State) : s.setMultiplicative.prp = s.prp := rfl
@[simp] theorem State.setMultiplicative_mprp (s : State) : s.setMultiplicative.mprp = s.mprp := rfl
@[simp] theorem State.setMultiplicative_cache (s : State) : s.setMultiplicative.cache = s.cache := rfl
@[simp] theorem State.setMultiplicative_prefetch (s : State) : s.setMultiplicative.prefetch = s.prefetch := rfl
@[simp] theorem State.setMultiplicative_pages (s : State) : s.setMultiplicative.pages = s.pages := rfl
@[simp] theorem State.setMultiplicative_mem (s : State) : s.setMultiplicative.mem = s.mem := rfl
@[simp] theorem State.setMultiplicative_inDispatch (s : State) : s.setMultiplicative.inDispatch = s.inDispatch := rfl
@[simp] theorem State.setMultiplicative_stopped (s : State) : s.setMultiplicative.stopped = s.stopped := rfl
@[simp] theorem State.setMultiplicative_resuming (s : State) : s.setMultiplicative.resuming = s.resuming := rfl
@[simp] theorem State.setMultiplicative_ioOut (s : State) : s.setMultiplicative.ioOut = s.ioOut := rfl
@[simp] theorem State.setMultiplicative_draws (s : State) : s.setMultiplicative.draws = s.draws := rfl
@[simp] theorem State.setMultiplicative_host (s : State) : s.setMultiplicative.host = s.host := rfl
@[simp] theorem State.setMultiplicative_cfg (s : State) : s.setMultiplicative.cfg = s.cfg := rfl

/-! ### `setAdditive` -/

@[simp] theorem State.setAdditive_acc (s : State) : s.setAdditive.acc = s.acc := rfl
@[simp] theorem State.setAdditive_rmr (s : State) : s.setAdditive.rmr = s.rmr := rfl
@[simp] theorem State.setAdditive_rau (s : State) : s.setAdditive.rau = (s.rau &&& 0o43) ||| 0o20 := rfl
@[simp] theorem State.setAdditive_ruu (s : State) : s.setAdditive.ruu = s.ruu := rfl
@[simp] theorem State.setAdditive_pc (s : State) : s.setAdditive.pc = s.pc := rfl
@[simp] theorem State.setAdditive_m (s : State) : s.setAdditive.m = s.m := rfl
@[simp] theorem State.setAdditive_ibp (s : State) : s.setAdditive.ibp = s.ibp := rfl
@[simp] theorem State.setAdditive_dwp (s : State) : s.setAdditive.dwp = s.dwp := rfl
@[simp] theorem State.setAdditive_grp (s : State) : s.setAdditive.grp = s.grp := rfl
@[simp] theorem State.setAdditive_mgrp (s : State) : s.setAdditive.mgrp = s.mgrp := rfl
@[simp] theorem State.setAdditive_prp (s : State) : s.setAdditive.prp = s.prp := rfl
@[simp] theorem State.setAdditive_mprp (s : State) : s.setAdditive.mprp = s.mprp := rfl
@[simp] theorem State.setAdditive_cache (s : State) : s.setAdditive.cache = s.cache := rfl
@[simp] theorem State.setAdditive_prefetch (s : State) : s.setAdditive.prefetch = s.prefetch := rfl
@[simp] theorem State.setAdditive_pages (s : State) : s.setAdditive.pages = s.pages := rfl
@[simp] theorem State.setAdditive_mem (s : State) : s.setAdditive.mem = s.mem := rfl
@[simp] theorem State.setAdditive_inDispatch (s : State) : s.setAdditive.inDispatch = s.inDispatch := rfl
@[simp] theorem State.setAdditive_stopped (s : State) : s.setAdditive.stopped = s.stopped := rfl
@[simp] theorem State.setAdditive_resuming (s : State) : s.setAdditive.resuming = s.resuming := rfl
@[simp] theorem State.setAdditive_ioOut (s : State) : s.setAdditive.ioOut = s.ioOut := rfl
@[simp] theorem State.setAdditive_draws (s : State) : s.setAdditive.draws = s.draws := rfl
@[simp] theorem State.setAdditive_host (s : State) : s.setAdditive.host = s.host := rfl
@[simp] theorem State.setAdditive_cfg (s : State) : s.setAdditive.cfg = s.cfg := rfl

/-! ### `stopWith` -/

@[simp] theorem State.stopWith_acc (s : State) (c : StopCode) : (s.stopWith c).acc = s.acc := rfl
@[simp] theorem State.stopWith_rmr (s : State) (c : StopCode) : (s.stopWith c).rmr = s.rmr := rfl
@[simp] theorem State.stopWith_rau (s : State) (c : StopCode) : (s.stopWith c).rau = s.rau := rfl
@[simp] theorem State.stopWith_ruu (s : State) (c : StopCode) : (s.stopWith c).ruu = s.ruu := rfl
@[simp] theorem State.stopWith_pc (s : State) (c : StopCode) : (s.stopWith c).pc = s.pc := rfl
@[simp] theorem State.stopWith_m (s : State) (c : StopCode) : (s.stopWith c).m = s.m := rfl
@[simp] theorem State.stopWith_ibp (s : State) (c : StopCode) : (s.stopWith c).ibp = s.ibp := rfl
@[simp] theorem State.stopWith_dwp (s : State) (c : StopCode) : (s.stopWith c).dwp = s.dwp := rfl
@[simp] theorem State.stopWith_grp (s : State) (c : StopCode) : (s.stopWith c).grp = s.grp := rfl
@[simp] theorem State.stopWith_mgrp (s : State) (c : StopCode) : (s.stopWith c).mgrp = s.mgrp := rfl
@[simp] theorem State.stopWith_prp (s : State) (c : StopCode) : (s.stopWith c).prp = s.prp := rfl
@[simp] theorem State.stopWith_mprp (s : State) (c : StopCode) : (s.stopWith c).mprp = s.mprp := rfl
@[simp] theorem State.stopWith_cache (s : State) (c : StopCode) : (s.stopWith c).cache = s.cache := rfl
@[simp] theorem State.stopWith_prefetch (s : State) (c : StopCode) : (s.stopWith c).prefetch = s.prefetch := rfl
@[simp] theorem State.stopWith_pages (s : State) (c : StopCode) : (s.stopWith c).pages = s.pages := rfl
@[simp] theorem State.stopWith_mem (s : State) (c : StopCode) : (s.stopWith c).mem = s.mem := rfl
@[simp] theorem State.stopWith_inDispatch (s : State) (c : StopCode) : (s.stopWith c).inDispatch = s.inDispatch := rfl
@[simp] theorem State.stopWith_stopped (s : State) (c : StopCode) : (s.stopWith c).stopped = some c := rfl
@[simp] theorem State.stopWith_resuming (s : State) (c : StopCode) : (s.stopWith c).resuming = s.resuming := rfl
@[simp] theorem State.stopWith_ioOut (s : State) (c : StopCode) : (s.stopWith c).ioOut = s.ioOut := rfl
@[simp] theorem State.stopWith_draws (s : State) (c : StopCode) : (s.stopWith c).draws = s.draws := rfl
@[simp] theorem State.stopWith_host (s : State) (c : StopCode) : (s.stopWith c).host = s.host := rfl
@[simp] theorem State.stopWith_cfg (s : State) (c : StopCode) : (s.stopWith c).cfg = s.cfg := rfl

/-! ### `setFlush` -/

@[simp] theorem State.setFlush_acc (s : State) (n : BitVec 4) : (s.setFlush n).acc = s.acc := rfl
@[simp] theorem State.setFlush_rmr (s : State) (n : BitVec 4) : (s.setFlush n).rmr = s.rmr := rfl
@[simp] theorem State.setFlush_rau (s : State) (n : BitVec 4) : (s.setFlush n).rau = s.rau := rfl
@[simp] theorem State.setFlush_ruu (s : State) (n : BitVec 4) : (s.setFlush n).ruu = s.ruu := rfl
@[simp] theorem State.setFlush_pc (s : State) (n : BitVec 4) : (s.setFlush n).pc = s.pc := rfl
@[simp] theorem State.setFlush_m (s : State) (n : BitVec 4) : (s.setFlush n).m = s.m := rfl
@[simp] theorem State.setFlush_ibp (s : State) (n : BitVec 4) : (s.setFlush n).ibp = s.ibp := rfl
@[simp] theorem State.setFlush_dwp (s : State) (n : BitVec 4) : (s.setFlush n).dwp = s.dwp := rfl
@[simp] theorem State.setFlush_grp (s : State) (n : BitVec 4) : (s.setFlush n).grp = s.grp := rfl
@[simp] theorem State.setFlush_mgrp (s : State) (n : BitVec 4) : (s.setFlush n).mgrp = s.mgrp := rfl
@[simp] theorem State.setFlush_prp (s : State) (n : BitVec 4) : (s.setFlush n).prp = s.prp := rfl
@[simp] theorem State.setFlush_mprp (s : State) (n : BitVec 4) : (s.setFlush n).mprp = s.mprp := rfl
@[simp] theorem State.setFlush_cache (s : State) (n : BitVec 4) : (s.setFlush n).cache = { s.cache with flush := n } := rfl
@[simp] theorem State.setFlush_prefetch (s : State) (n : BitVec 4) : (s.setFlush n).prefetch = s.prefetch := rfl
@[simp] theorem State.setFlush_pages (s : State) (n : BitVec 4) : (s.setFlush n).pages = s.pages := rfl
@[simp] theorem State.setFlush_mem (s : State) (n : BitVec 4) : (s.setFlush n).mem = s.mem := rfl
@[simp] theorem State.setFlush_inDispatch (s : State) (n : BitVec 4) : (s.setFlush n).inDispatch = s.inDispatch := rfl
@[simp] theorem State.setFlush_stopped (s : State) (n : BitVec 4) : (s.setFlush n).stopped = s.stopped := rfl
@[simp] theorem State.setFlush_resuming (s : State) (n : BitVec 4) : (s.setFlush n).resuming = s.resuming := rfl
@[simp] theorem State.setFlush_ioOut (s : State) (n : BitVec 4) : (s.setFlush n).ioOut = s.ioOut := rfl
@[simp] theorem State.setFlush_draws (s : State) (n : BitVec 4) : (s.setFlush n).draws = s.draws := rfl
@[simp] theorem State.setFlush_host (s : State) (n : BitVec 4) : (s.setFlush n).host = s.host := rfl
@[simp] theorem State.setFlush_cfg (s : State) (n : BitVec 4) : (s.setFlush n).cfg = s.cfg := rfl

/-! ### `clearOrder` -/

@[simp] theorem State.clearOrder_acc (s : State) : s.clearOrder.acc = s.acc := rfl
@[simp] theorem State.clearOrder_rmr (s : State) : s.clearOrder.rmr = s.rmr := rfl
@[simp] theorem State.clearOrder_rau (s : State) : s.clearOrder.rau = s.rau := rfl
@[simp] theorem State.clearOrder_ruu (s : State) : s.clearOrder.ruu = s.ruu := rfl
@[simp] theorem State.clearOrder_pc (s : State) : s.clearOrder.pc = s.pc := rfl
@[simp] theorem State.clearOrder_m (s : State) : s.clearOrder.m = s.m := rfl
@[simp] theorem State.clearOrder_ibp (s : State) : s.clearOrder.ibp = s.ibp := rfl
@[simp] theorem State.clearOrder_dwp (s : State) : s.clearOrder.dwp = s.dwp := rfl
@[simp] theorem State.clearOrder_grp (s : State) : s.clearOrder.grp = s.grp := rfl
@[simp] theorem State.clearOrder_mgrp (s : State) : s.clearOrder.mgrp = s.mgrp := rfl
@[simp] theorem State.clearOrder_prp (s : State) : s.clearOrder.prp = s.prp := rfl
@[simp] theorem State.clearOrder_mprp (s : State) : s.clearOrder.mprp = s.mprp := rfl
@[simp] theorem State.clearOrder_cache (s : State) : s.clearOrder.cache = { s.cache with tabst := 0 } := rfl
@[simp] theorem State.clearOrder_prefetch (s : State) : s.clearOrder.prefetch = s.prefetch := rfl
@[simp] theorem State.clearOrder_pages (s : State) : s.clearOrder.pages = s.pages := rfl
@[simp] theorem State.clearOrder_mem (s : State) : s.clearOrder.mem = s.mem := rfl
@[simp] theorem State.clearOrder_inDispatch (s : State) : s.clearOrder.inDispatch = s.inDispatch := rfl
@[simp] theorem State.clearOrder_stopped (s : State) : s.clearOrder.stopped = s.stopped := rfl
@[simp] theorem State.clearOrder_resuming (s : State) : s.clearOrder.resuming = s.resuming := rfl
@[simp] theorem State.clearOrder_ioOut (s : State) : s.clearOrder.ioOut = s.ioOut := rfl
@[simp] theorem State.clearOrder_draws (s : State) : s.clearOrder.draws = s.draws := rfl
@[simp] theorem State.clearOrder_host (s : State) : s.clearOrder.host = s.host := rfl
@[simp] theorem State.clearOrder_cfg (s : State) : s.clearOrder.cfg = s.cfg := rfl

/-! ### `touch` -/

@[simp] theorem State.touch_acc (s : State) (k : Fin 8) : (s.touch k).acc = s.acc := rfl
@[simp] theorem State.touch_rmr (s : State) (k : Fin 8) : (s.touch k).rmr = s.rmr := rfl
@[simp] theorem State.touch_rau (s : State) (k : Fin 8) : (s.touch k).rau = s.rau := rfl
@[simp] theorem State.touch_ruu (s : State) (k : Fin 8) : (s.touch k).ruu = s.ruu := rfl
@[simp] theorem State.touch_pc (s : State) (k : Fin 8) : (s.touch k).pc = s.pc := rfl
@[simp] theorem State.touch_m (s : State) (k : Fin 8) : (s.touch k).m = s.m := rfl
@[simp] theorem State.touch_ibp (s : State) (k : Fin 8) : (s.touch k).ibp = s.ibp := rfl
@[simp] theorem State.touch_dwp (s : State) (k : Fin 8) : (s.touch k).dwp = s.dwp := rfl
@[simp] theorem State.touch_grp (s : State) (k : Fin 8) : (s.touch k).grp = s.grp := rfl
@[simp] theorem State.touch_mgrp (s : State) (k : Fin 8) : (s.touch k).mgrp = s.mgrp := rfl
@[simp] theorem State.touch_prp (s : State) (k : Fin 8) : (s.touch k).prp = s.prp := rfl
@[simp] theorem State.touch_mprp (s : State) (k : Fin 8) : (s.touch k).mprp = s.mprp := rfl
@[simp] theorem State.touch_cache (s : State) (k : Fin 8) : (s.touch k).cache = { s.cache with tabst := Recency.setWins Recency.row8 8 s.cache.tabst k } := rfl
@[simp] theorem State.touch_prefetch (s : State) (k : Fin 8) : (s.touch k).prefetch = s.prefetch := rfl
@[simp] theorem State.touch_pages (s : State) (k : Fin 8) : (s.touch k).pages = s.pages := rfl
@[simp] theorem State.touch_mem (s : State) (k : Fin 8) : (s.touch k).mem = s.mem := rfl
@[simp] theorem State.touch_inDispatch (s : State) (k : Fin 8) : (s.touch k).inDispatch = s.inDispatch := rfl
@[simp] theorem State.touch_stopped (s : State) (k : Fin 8) : (s.touch k).stopped = s.stopped := rfl
@[simp] theorem State.touch_resuming (s : State) (k : Fin 8) : (s.touch k).resuming = s.resuming := rfl
@[simp] theorem State.touch_ioOut (s : State) (k : Fin 8) : (s.touch k).ioOut = s.ioOut := rfl
@[simp] theorem State.touch_draws (s : State) (k : Fin 8) : (s.touch k).draws = s.draws := rfl
@[simp] theorem State.touch_host (s : State) (k : Fin 8) : (s.touch k).host = s.host := rfl
@[simp] theorem State.touch_cfg (s : State) (k : Fin 8) : (s.touch k).cfg = s.cfg := rfl

/-! ### `fillSlot` -/

@[simp] theorem State.fillSlot_acc (s : State) (k : Fin 8) (av : Variant) (w : TWord) : (s.fillSlot k av w).acc = s.acc := rfl
@[simp] theorem State.fillSlot_rmr (s : State) (k : Fin 8) (av : Variant) (w : TWord) : (s.fillSlot k av w).rmr = s.rmr := rfl
@[simp] theorem State.fillSlot_rau (s : State) (k : Fin 8) (av : Variant) (w : TWord) : (s.fillSlot k av w).rau = s.rau := rfl
@[simp] theorem State.fillSlot_ruu (s : State) (k : Fin 8) (av : Variant) (w : TWord) : (s.fillSlot k av w).ruu = s.ruu := rfl
@[simp] theorem State.fillSlot_pc (s : State) (k : Fin 8) (av : Variant) (w : TWord) : (s.fillSlot k av w).pc = s.pc := rfl
@[simp] theorem State.fillSlot_m (s : State) (k : Fin 8) (av : Variant) (w : TWord) : (s.fillSlot k av w).m = s.m := rfl
@[simp] theorem State.fillSlot_ibp (s : State) (k : Fin 8) (av : Variant) (w : TWord) : (s.fillSlot k av w).ibp = s.ibp := rfl
@[simp] theorem State.fillSlot_dwp (s : State) (k : Fin 8) (av : Variant) (w : TWord) : (s.fillSlot k av w).dwp = s.dwp := rfl
@[simp] theorem State.fillSlot_grp (s : State) (k : Fin 8) (av : Variant) (w : TWord) : (s.fillSlot k av w).grp = s.grp := rfl
@[simp] theorem State.fillSlot_mgrp (s : State) (k : Fin 8) (av : Variant) (w : TWord) : (s.fillSlot k av w).mgrp = s.mgrp := rfl
@[simp] theorem State.fillSlot_prp (s : State) (k : Fin 8) (av : Variant) (w : TWord) : (s.fillSlot k av w).prp = s.prp := rfl
@[simp] theorem State.fillSlot_mprp (s : State) (k : Fin 8) (av : Variant) (w : TWord) : (s.fillSlot k av w).mprp = s.mprp := rfl
@[simp] theorem State.fillSlot_cache (s : State) (k : Fin 8) (av : Variant) (w : TWord) : (s.fillSlot k av w).cache = { s.cache with brz := s.cache.brz.set k w, baz := s.cache.baz.set k av } := rfl
@[simp] theorem State.fillSlot_prefetch (s : State) (k : Fin 8) (av : Variant) (w : TWord) : (s.fillSlot k av w).prefetch = s.prefetch := rfl
@[simp] theorem State.fillSlot_pages (s : State) (k : Fin 8) (av : Variant) (w : TWord) : (s.fillSlot k av w).pages = s.pages := rfl
@[simp] theorem State.fillSlot_mem (s : State) (k : Fin 8) (av : Variant) (w : TWord) : (s.fillSlot k av w).mem = s.mem := rfl
@[simp] theorem State.fillSlot_inDispatch (s : State) (k : Fin 8) (av : Variant) (w : TWord) : (s.fillSlot k av w).inDispatch = s.inDispatch := rfl
@[simp] theorem State.fillSlot_stopped (s : State) (k : Fin 8) (av : Variant) (w : TWord) : (s.fillSlot k av w).stopped = s.stopped := rfl
@[simp] theorem State.fillSlot_resuming (s : State) (k : Fin 8) (av : Variant) (w : TWord) : (s.fillSlot k av w).resuming = s.resuming := rfl
@[simp] theorem State.fillSlot_ioOut (s : State) (k : Fin 8) (av : Variant) (w : TWord) : (s.fillSlot k av w).ioOut = s.ioOut := rfl
@[simp] theorem State.fillSlot_draws (s : State) (k : Fin 8) (av : Variant) (w : TWord) : (s.fillSlot k av w).draws = s.draws := rfl
@[simp] theorem State.fillSlot_host (s : State) (k : Fin 8) (av : Variant) (w : TWord) : (s.fillSlot k av w).host = s.host := rfl
@[simp] theorem State.fillSlot_cfg (s : State) (k : Fin 8) (av : Variant) (w : TWord) : (s.fillSlot k av w).cfg = s.cfg := rfl

/-! ### `emptySlot` -/

@[simp] theorem State.emptySlot_acc (s : State) (k : Fin 8) : (s.emptySlot k).acc = s.acc := rfl
@[simp] theorem State.emptySlot_rmr (s : State) (k : Fin 8) : (s.emptySlot k).rmr = s.rmr := rfl
@[simp] theorem State.emptySlot_rau (s : State) (k : Fin 8) : (s.emptySlot k).rau = s.rau := rfl
@[simp] theorem State.emptySlot_ruu (s : State) (k : Fin 8) : (s.emptySlot k).ruu = s.ruu := rfl
@[simp] theorem State.emptySlot_pc (s : State) (k : Fin 8) : (s.emptySlot k).pc = s.pc := rfl
@[simp] theorem State.emptySlot_m (s : State) (k : Fin 8) : (s.emptySlot k).m = s.m := rfl
@[simp] theorem State.emptySlot_ibp (s : State) (k : Fin 8) : (s.emptySlot k).ibp = s.ibp := rfl
@[simp] theorem State.emptySlot_dwp (s : State) (k : Fin 8) : (s.emptySlot k).dwp = s.dwp := rfl
@[simp] theorem State.emptySlot_grp (s : State) (k : Fin 8) : (s.emptySlot k).grp = s.grp := rfl
@[simp] theorem State.emptySlot_mgrp (s : State) (k : Fin 8) : (s.emptySlot k).mgrp = s.mgrp := rfl
@[simp] theorem State.emptySlot_prp (s : State) (k : Fin 8) : (s.emptySlot k).prp = s.prp := rfl
@[simp] theorem State.emptySlot_mprp (s : State) (k : Fin 8) : (s.emptySlot k).mprp = s.mprp := rfl
@[simp] theorem State.emptySlot_cache (s : State) (k : Fin 8) : (s.emptySlot k).cache = { s.cache with baz := s.cache.baz.set k 0 } := rfl
@[simp] theorem State.emptySlot_prefetch (s : State) (k : Fin 8) : (s.emptySlot k).prefetch = s.prefetch := rfl
@[simp] theorem State.emptySlot_pages (s : State) (k : Fin 8) : (s.emptySlot k).pages = s.pages := rfl
@[simp] theorem State.emptySlot_mem (s : State) (k : Fin 8) : (s.emptySlot k).mem = s.mem := rfl
@[simp] theorem State.emptySlot_inDispatch (s : State) (k : Fin 8) : (s.emptySlot k).inDispatch = s.inDispatch := rfl
@[simp] theorem State.emptySlot_stopped (s : State) (k : Fin 8) : (s.emptySlot k).stopped = s.stopped := rfl
@[simp] theorem State.emptySlot_resuming (s : State) (k : Fin 8) : (s.emptySlot k).resuming = s.resuming := rfl
@[simp] theorem State.emptySlot_ioOut (s : State) (k : Fin 8) : (s.emptySlot k).ioOut = s.ioOut := rfl
@[simp] theorem State.emptySlot_draws (s : State) (k : Fin 8) : (s.emptySlot k).draws = s.draws := rfl
@[simp] theorem State.emptySlot_host (s : State) (k : Fin 8) : (s.emptySlot k).host = s.host := rfl
@[simp] theorem State.emptySlot_cfg (s : State) (k : Fin 8) : (s.emptySlot k).cfg = s.cfg := rfl

/-! ### `setCacheSlot` -/

@[simp] theorem State.setCacheSlot_acc (s : State) (k : Fin 8) (v : Word) : (s.setCacheSlot k v).acc = s.acc := rfl
@[simp] theorem State.setCacheSlot_rmr (s : State) (k : Fin 8) (v : Word) : (s.setCacheSlot k v).rmr = s.rmr := rfl
@[simp] theorem State.setCacheSlot_rau (s : State) (k : Fin 8) (v : Word) : (s.setCacheSlot k v).rau = s.rau := rfl
@[simp] theorem State.setCacheSlot_ruu (s : State) (k : Fin 8) (v : Word) : (s.setCacheSlot k v).ruu = s.ruu := rfl
@[simp] theorem State.setCacheSlot_pc (s : State) (k : Fin 8) (v : Word) : (s.setCacheSlot k v).pc = s.pc := rfl
@[simp] theorem State.setCacheSlot_m (s : State) (k : Fin 8) (v : Word) : (s.setCacheSlot k v).m = s.m := rfl
@[simp] theorem State.setCacheSlot_ibp (s : State) (k : Fin 8) (v : Word) : (s.setCacheSlot k v).ibp = s.ibp := rfl
@[simp] theorem State.setCacheSlot_dwp (s : State) (k : Fin 8) (v : Word) : (s.setCacheSlot k v).dwp = s.dwp := rfl
@[simp] theorem State.setCacheSlot_grp (s : State) (k : Fin 8) (v : Word) : (s.setCacheSlot k v).grp = s.grp := rfl
@[simp] theorem State.setCacheSlot_mgrp (s : State) (k : Fin 8) (v : Word) : (s.setCacheSlot k v).mgrp = s.mgrp := rfl
@[simp] theorem State.setCacheSlot_prp (s : State) (k : Fin 8) (v : Word) : (s.setCacheSlot k v).prp = s.prp := rfl
@[simp] theorem State.setCacheSlot_mprp (s : State) (k : Fin 8) (v : Word) : (s.setCacheSlot k v).mprp = s.mprp := rfl
@[simp] theorem State.setCacheSlot_cache (s : State) (k : Fin 8) (v : Word) : (s.setCacheSlot k v).cache = { s.cache with brz := s.cache.brz.set k ⟨s.storeTag, v⟩ } := rfl
@[simp] theorem State.setCacheSlot_prefetch (s : State) (k : Fin 8) (v : Word) : (s.setCacheSlot k v).prefetch = s.prefetch := rfl
@[simp] theorem State.setCacheSlot_pages (s : State) (k : Fin 8) (v : Word) : (s.setCacheSlot k v).pages = s.pages := rfl
@[simp] theorem State.setCacheSlot_mem (s : State) (k : Fin 8) (v : Word) : (s.setCacheSlot k v).mem = s.mem := rfl
@[simp] theorem State.setCacheSlot_inDispatch (s : State) (k : Fin 8) (v : Word) : (s.setCacheSlot k v).inDispatch = s.inDispatch := rfl
@[simp] theorem State.setCacheSlot_stopped (s : State) (k : Fin 8) (v : Word) : (s.setCacheSlot k v).stopped = s.stopped := rfl
@[simp] theorem State.setCacheSlot_resuming (s : State) (k : Fin 8) (v : Word) : (s.setCacheSlot k v).resuming = s.resuming := rfl
@[simp] theorem State.setCacheSlot_ioOut (s : State) (k : Fin 8) (v : Word) : (s.setCacheSlot k v).ioOut = s.ioOut := rfl
@[simp] theorem State.setCacheSlot_draws (s : State) (k : Fin 8) (v : Word) : (s.setCacheSlot k v).draws = s.draws := rfl
@[simp] theorem State.setCacheSlot_host (s : State) (k : Fin 8) (v : Word) : (s.setCacheSlot k v).host = s.host := rfl
@[simp] theorem State.setCacheSlot_cfg (s : State) (k : Fin 8) (v : Word) : (s.setCacheSlot k v).cfg = s.cfg := rfl

/-! ### `putWord` -/

@[simp] theorem State.putWord_acc (s : State) (p : Nat) (w : TWord) : (s.putWord p w).acc = s.acc := rfl
@[simp] theorem State.putWord_rmr (s : State) (p : Nat) (w : TWord) : (s.putWord p w).rmr = s.rmr := rfl
@[simp] theorem State.putWord_rau (s : State) (p : Nat) (w : TWord) : (s.putWord p w).rau = s.rau := rfl
@[simp] theorem State.putWord_ruu (s : State) (p : Nat) (w : TWord) : (s.putWord p w).ruu = s.ruu := rfl
@[simp] theorem State.putWord_pc (s : State) (p : Nat) (w : TWord) : (s.putWord p w).pc = s.pc := rfl
@[simp] theorem State.putWord_m (s : State) (p : Nat) (w : TWord) : (s.putWord p w).m = s.m := rfl
@[simp] theorem State.putWord_ibp (s : State) (p : Nat) (w : TWord) : (s.putWord p w).ibp = s.ibp := rfl
@[simp] theorem State.putWord_dwp (s : State) (p : Nat) (w : TWord) : (s.putWord p w).dwp = s.dwp := rfl
@[simp] theorem State.putWord_grp (s : State) (p : Nat) (w : TWord) : (s.putWord p w).grp = s.grp := rfl
@[simp] theorem State.putWord_mgrp (s : State) (p : Nat) (w : TWord) : (s.putWord p w).mgrp = s.mgrp := rfl
@[simp] theorem State.putWord_prp (s : State) (p : Nat) (w : TWord) : (s.putWord p w).prp = s.prp := rfl
@[simp] theorem State.putWord_mprp (s : State) (p : Nat) (w : TWord) : (s.putWord p w).mprp = s.mprp := rfl
@[simp] theorem State.putWord_cache (s : State) (p : Nat) (w : TWord) : (s.putWord p w).cache = s.cache := rfl
@[simp] theorem State.putWord_prefetch (s : State) (p : Nat) (w : TWord) : (s.putWord p w).prefetch = s.prefetch := rfl
@[simp] theorem State.putWord_pages (s : State) (p : Nat) (w : TWord) : (s.putWord p w).pages = s.pages := rfl
@[simp] theorem State.putWord_mem (s : State) (p : Nat) (w : TWord) : (s.putWord p w).mem = Memory.write s.mem p w := rfl
@[simp] theorem State.putWord_inDispatch (s : State) (p : Nat) (w : TWord) : (s.putWord p w).inDispatch = s.inDispatch := rfl
@[simp] theorem State.putWord_stopped (s : State) (p : Nat) (w : TWord) : (s.putWord p w).stopped = s.stopped := rfl
@[simp] theorem State.putWord_resuming (s : State) (p : Nat) (w : TWord) : (s.putWord p w).resuming = s.resuming := rfl
@[simp] theorem State.putWord_ioOut (s : State) (p : Nat) (w : TWord) : (s.putWord p w).ioOut = s.ioOut := rfl
@[simp] theorem State.putWord_draws (s : State) (p : Nat) (w : TWord) : (s.putWord p w).draws = s.draws := rfl
@[simp] theorem State.putWord_host (s : State) (p : Nat) (w : TWord) : (s.putWord p w).host = s.host := rfl
@[simp] theorem State.putWord_cfg (s : State) (p : Nat) (w : TWord) : (s.putWord p w).cfg = s.cfg := rfl

/-! ### `setProtection` -/

@[simp] theorem State.setProtection_acc (s : State) (g : BitVec 2) (v : Word) : (s.setProtection g v).acc = s.acc := rfl
@[simp] theorem State.setProtection_rmr (s : State) (g : BitVec 2) (v : Word) : (s.setProtection g v).rmr = s.rmr := rfl
@[simp] theorem State.setProtection_rau (s : State) (g : BitVec 2) (v : Word) : (s.setProtection g v).rau = s.rau := rfl
@[simp] theorem State.setProtection_ruu (s : State) (g : BitVec 2) (v : Word) : (s.setProtection g v).ruu = s.ruu := rfl
@[simp] theorem State.setProtection_pc (s : State) (g : BitVec 2) (v : Word) : (s.setProtection g v).pc = s.pc := rfl
@[simp] theorem State.setProtection_m (s : State) (g : BitVec 2) (v : Word) : (s.setProtection g v).m = s.m := rfl
@[simp] theorem State.setProtection_ibp (s : State) (g : BitVec 2) (v : Word) : (s.setProtection g v).ibp = s.ibp := rfl
@[simp] theorem State.setProtection_dwp (s : State) (g : BitVec 2) (v : Word) : (s.setProtection g v).dwp = s.dwp := rfl
@[simp] theorem State.setProtection_grp (s : State) (g : BitVec 2) (v : Word) : (s.setProtection g v).grp = s.grp := rfl
@[simp] theorem State.setProtection_mgrp (s : State) (g : BitVec 2) (v : Word) : (s.setProtection g v).mgrp = s.mgrp := rfl
@[simp] theorem State.setProtection_prp (s : State) (g : BitVec 2) (v : Word) : (s.setProtection g v).prp = s.prp := rfl
@[simp] theorem State.setProtection_mprp (s : State) (g : BitVec 2) (v : Word) : (s.setProtection g v).mprp = s.mprp := rfl
@[simp] theorem State.setProtection_cache (s : State) (g : BitVec 2) (v : Word) : (s.setProtection g v).cache = s.cache := rfl
@[simp] theorem State.setProtection_prefetch (s : State) (g : BitVec 2) (v : Word) : (s.setProtection g v).prefetch = s.prefetch := rfl
@[simp] theorem State.setProtection_pages (s : State) (g : BitVec 2) (v : Word) : (s.setProtection g v).pages = { s.pages with rz := setField s.pages.rz (8 * g.toNat) (v.extractLsb' 20 8) } := rfl
@[simp] theorem State.setProtection_mem (s : State) (g : BitVec 2) (v : Word) : (s.setProtection g v).mem = s.mem := rfl
@[simp] theorem State.setProtection_inDispatch (s : State) (g : BitVec 2) (v : Word) : (s.setProtection g v).inDispatch = s.inDispatch := rfl
@[simp] theorem State.setProtection_stopped (s : State) (g : BitVec 2) (v : Word) : (s.setProtection g v).stopped = s.stopped := rfl
@[simp] theorem State.setProtection_resuming (s : State) (g : BitVec 2) (v : Word) : (s.setProtection g v).resuming = s.resuming := rfl
@[simp] theorem State.setProtection_ioOut (s : State) (g : BitVec 2) (v : Word) : (s.setProtection g v).ioOut = s.ioOut := rfl
@[simp] theorem State.setProtection_draws (s : State) (g : BitVec 2) (v : Word) : (s.setProtection g v).draws = s.draws := rfl
@[simp] theorem State.setProtection_host (s : State) (g : BitVec 2) (v : Word) : (s.setProtection g v).host = s.host := rfl
@[simp] theorem State.setProtection_cfg (s : State) (g : BitVec 2) (v : Word) : (s.setProtection g v).cfg = s.cfg := rfl

/-! ### `setPageRegister` -/

@[simp] theorem State.setPageRegister_acc (s : State) (i : Fin 8) (v : Word) : (s.setPageRegister i v).acc = s.acc := rfl
@[simp] theorem State.setPageRegister_rmr (s : State) (i : Fin 8) (v : Word) : (s.setPageRegister i v).rmr = s.rmr := rfl
@[simp] theorem State.setPageRegister_rau (s : State) (i : Fin 8) (v : Word) : (s.setPageRegister i v).rau = s.rau := rfl
@[simp] theorem State.setPageRegister_ruu (s : State) (i : Fin 8) (v : Word) : (s.setPageRegister i v).ruu = s.ruu := rfl
@[simp] theorem State.setPageRegister_pc (s : State) (i : Fin 8) (v : Word) : (s.setPageRegister i v).pc = s.pc := rfl
@[simp] theorem State.setPageRegister_m (s : State) (i : Fin 8) (v : Word) : (s.setPageRegister i v).m = s.m := rfl
@[simp] theorem State.setPageRegister_ibp (s : State) (i : Fin 8) (v : Word) : (s.setPageRegister i v).ibp = s.ibp := rfl
@[simp] theorem State.setPageRegister_dwp (s : State) (i : Fin 8) (v : Word) : (s.setPageRegister i v).dwp = s.dwp := rfl
@[simp] theorem State.setPageRegister_grp (s : State) (i : Fin 8) (v : Word) : (s.setPageRegister i v).grp = s.grp := rfl
@[simp] theorem State.setPageRegister_mgrp (s : State) (i : Fin 8) (v : Word) : (s.setPageRegister i v).mgrp = s.mgrp := rfl
@[simp] theorem State.setPageRegister_prp (s : State) (i : Fin 8) (v : Word) : (s.setPageRegister i v).prp = s.prp := rfl
@[simp] theorem State.setPageRegister_mprp (s : State) (i : Fin 8) (v : Word) : (s.setPageRegister i v).mprp = s.mprp := rfl
@[simp] theorem State.setPageRegister_cache (s : State) (i : Fin 8) (v : Word) : (s.setPageRegister i v).cache = s.cache := rfl
@[simp] theorem State.setPageRegister_prefetch (s : State) (i : Fin 8) (v : Word) : (s.setPageRegister i v).prefetch = s.prefetch := rfl
@[simp] theorem State.setPageRegister_mem (s : State) (i : Fin 8) (v : Word) : (s.setPageRegister i v).mem = s.mem := rfl
@[simp] theorem State.setPageRegister_inDispatch (s : State) (i : Fin 8) (v : Word) : (s.setPageRegister i v).inDispatch = s.inDispatch := rfl
@[simp] theorem State.setPageRegister_stopped (s : State) (i : Fin 8) (v : Word) : (s.setPageRegister i v).stopped = s.stopped := rfl
@[simp] theorem State.setPageRegister_resuming (s : State) (i : Fin 8) (v : Word) : (s.setPageRegister i v).resuming = s.resuming := rfl
@[simp] theorem State.setPageRegister_ioOut (s : State) (i : Fin 8) (v : Word) : (s.setPageRegister i v).ioOut = s.ioOut := rfl
@[simp] theorem State.setPageRegister_draws (s : State) (i : Fin 8) (v : Word) : (s.setPageRegister i v).draws = s.draws := rfl
@[simp] theorem State.setPageRegister_host (s : State) (i : Fin 8) (v : Word) : (s.setPageRegister i v).host = s.host := rfl
@[simp] theorem State.setPageRegister_cfg (s : State) (i : Fin 8) (v : Word) : (s.setPageRegister i v).cfg = s.cfg := rfl

/-! ### `jump` -/

@[simp] theorem State.jump_pc (s : State) (t : Addr) : (s.jump t).pc = t := rfl
@[simp] theorem State.jump_ruu (s : State) (t : Addr) : (s.jump t).ruu = setBit s.ruu 8 false := rfl
@[simp] theorem State.jump_acc (s : State) (t : Addr) : (s.jump t).acc = s.acc := rfl
@[simp] theorem State.jump_rmr (s : State) (t : Addr) : (s.jump t).rmr = s.rmr := rfl
@[simp] theorem State.jump_rau (s : State) (t : Addr) : (s.jump t).rau = s.rau := rfl
@[simp] theorem State.jump_m (s : State) (t : Addr) : (s.jump t).m = s.m := rfl
@[simp] theorem State.jump_ibp (s : State) (t : Addr) : (s.jump t).ibp = s.ibp := rfl
@[simp] theorem State.jump_dwp (s : State) (t : Addr) : (s.jump t).dwp = s.dwp := rfl
@[simp] theorem State.jump_grp (s : State) (t : Addr) : (s.jump t).grp = s.grp := rfl
@[simp] theorem State.jump_mgrp (s : State) (t : Addr) : (s.jump t).mgrp = s.mgrp := rfl
@[simp] theorem State.jump_prp (s : State) (t : Addr) : (s.jump t).prp = s.prp := rfl
@[simp] theorem State.jump_mprp (s : State) (t : Addr) : (s.jump t).mprp = s.mprp := rfl
@[simp] theorem State.jump_cache (s : State) (t : Addr) : (s.jump t).cache = s.cache := rfl
@[simp] theorem State.jump_prefetch (s : State) (t : Addr) : (s.jump t).prefetch = s.prefetch := rfl
@[simp] theorem State.jump_pages (s : State) (t : Addr) : (s.jump t).pages = s.pages := rfl
@[simp] theorem State.jump_mem (s : State) (t : Addr) : (s.jump t).mem = s.mem := rfl
@[simp] theorem State.jump_inDispatch (s : State) (t : Addr) : (s.jump t).inDispatch = s.inDispatch := rfl
@[simp] theorem State.jump_stopped (s : State) (t : Addr) : (s.jump t).stopped = s.stopped := rfl
@[simp] theorem State.jump_resuming (s : State) (t : Addr) : (s.jump t).resuming = s.resuming := rfl
@[simp] theorem State.jump_ioOut (s : State) (t : Addr) : (s.jump t).ioOut = s.ioOut := rfl
@[simp] theorem State.jump_draws (s : State) (t : Addr) : (s.jump t).draws = s.draws := rfl
@[simp] theorem State.jump_host (s : State) (t : Addr) : (s.jump t).host = s.host := rfl
@[simp] theorem State.jump_cfg (s : State) (t : Addr) : (s.jump t).cfg = s.cfg := rfl

/-! ### `putM`: only the registers themselves change -/

@[simp] theorem State.putM_acc (s : State) (r : Nat) (v : Addr) : (s.putM r v).acc = s.acc := by
  unfold State.putM; split_ifs <;> rfl
@[simp] theorem State.putM_rmr (s : State) (r : Nat) (v : Addr) : (s.putM r v).rmr = s.rmr := by
  unfold State.putM; split_ifs <;> rfl
@[simp] theorem State.putM_rau (s : State) (r : Nat) (v : Addr) : (s.putM r v).rau = s.rau := by
  unfold State.putM; split_ifs <;> rfl
@[simp] theorem State.putM_ruu (s : State) (r : Nat) (v : Addr) : (s.putM r v).ruu = s.ruu := by
  unfold State.putM; split_ifs <;> rfl
@[simp] theorem State.putM_pc (s : State) (r : Nat) (v : Addr) : (s.putM r v).pc = s.pc := by
  unfold State.putM; split_ifs <;> rfl
@[simp] theorem State.putM_grp (s : State) (r : Nat) (v : Addr) : (s.putM r v).grp = s.grp := by
  unfold State.putM; split_ifs <;> rfl
@[simp] theorem State.putM_mgrp (s : State) (r : Nat) (v : Addr) : (s.putM r v).mgrp = s.mgrp := by
  unfold State.putM; split_ifs <;> rfl
@[simp] theorem State.putM_prp (s : State) (r : Nat) (v : Addr) : (s.putM r v).prp = s.prp := by
  unfold State.putM; split_ifs <;> rfl
@[simp] theorem State.putM_mprp (s : State) (r : Nat) (v : Addr) : (s.putM r v).mprp = s.mprp := by
  unfold State.putM; split_ifs <;> rfl
@[simp] theorem State.putM_cache (s : State) (r : Nat) (v : Addr) : (s.putM r v).cache = s.cache := by
  unfold State.putM; split_ifs <;> rfl
@[simp] theorem State.putM_prefetch (s : State) (r : Nat) (v : Addr) : (s.putM r v).prefetch = s.prefetch := by
  unfold State.putM; split_ifs <;> rfl
@[simp] theorem State.putM_pages (s : State) (r : Nat) (v : Addr) : (s.putM r v).pages = s.pages := by
  unfold State.putM; split_ifs <;> rfl
@[simp] theorem State.putM_mem (s : State) (r : Nat) (v : Addr) : (s.putM r v).mem = s.mem := by
  unfold State.putM; split_ifs <;> rfl
@[simp] theorem State.putM_inDispatch (s : State) (r : Nat) (v : Addr) : (s.putM r v).inDispatch = s.inDispatch := by
  unfold State.putM; split_ifs <;> rfl
@[simp] theorem State.putM_stopped (s : State) (r : Nat) (v : Addr) : (s.putM r v).stopped = s.stopped := by
  unfold State.putM; split_ifs <;> rfl
@[simp] theorem State.putM_resuming (s : State) (r : Nat) (v : Addr) : (s.putM r v).resuming = s.resuming := by
  unfold State.putM; split_ifs <;> rfl
@[simp] theorem State.putM_ioOut (s : State) (r : Nat) (v : Addr) : (s.putM r v).ioOut = s.ioOut := by
  unfold State.putM; split_ifs <;> rfl
@[simp] theorem State.putM_draws (s : State) (r : Nat) (v : Addr) : (s.putM r v).draws = s.draws := by
  unfold State.putM; split_ifs <;> rfl
@[simp] theorem State.putM_host (s : State) (r : Nat) (v : Addr) : (s.putM r v).host = s.host := by
  unfold State.putM; split_ifs <;> rfl
@[simp] theorem State.putM_cfg (s : State) (r : Nat) (v : Addr) : (s.putM r v).cfg = s.cfg := by
  unfold State.putM; split_ifs <;> rfl

end Sys2Proof.Machine
end

