-- ==== Sys2Proof/Laws/Registers.lean ====
section
/-!
SUPPORT. The registers M: what a read gives after a write, and on which fields a read depends.
-/
namespace Sys2Proof.Machine

@[simp] theorem State.getM_zero (s : State) : s.getM 0 = 0 := rfl

/-- A read of M depends on the registers alone. -/
theorem State.getM_congr {s t : State} (hm : t.m = s.m) (hi : t.ibp = s.ibp) (hd : t.dwp = s.dwp) (r : Nat) :
    t.getM r = s.getM r := by
  unfold State.getM; rw [hm, hi, hd]

/-- A write to M[0] is discarded (R14). -/
@[simp] theorem State.putM_zero (s : State) (v : Addr) : s.putM 0 v = s := rfl

theorem variant_setWidth (b : Bool) (a : Addr) : (variant b a).setWidth 15 = a := by
  unfold variant
  ext i hi
  simp only [BitVec.getElem_setWidth, BitVec.getLsbD_append, hi]
  exact BitVec.getLsbD_eq_getElem hi

/-- Reading the register just written gives the 15 bits written (R238); registers 1 .. 0o35 exist. -/
theorem State.getM_putM_same (s : State) (r : Nat) (v : Addr) (h0 : r ≠ 0) (h1 : r < 0o36) : (s.putM r v).getM r = v := by
  unfold State.putM State.getM
  simp only [h0, if_false]
  by_cases h34 : r = 0o34
  · simp [h34, variant_setWidth]
  · by_cases h35 : r = 0o35
    · simp [h35, variant_setWidth]
    · have : r - 1 < 27 := by omega
      simp [h34, h35, Vector.getElem?_eq_getElem this]

/-- A write leaves every other register alone. -/
theorem State.getM_putM_other (s : State) (r q : Nat) (v : Addr) (h : q ≠ r) : (s.putM r v).getM q = s.getM q := by
  unfold State.putM State.getM
  split_ifs <;> try rfl
  all_goals first | omega | skip
  all_goals
    simp only [Vector.getElem?_setIfInBounds]
    rw [if_neg (by omega)]

/-- Writing one of the absent registers changes nothing (U3). -/
theorem State.putM_absent (s : State) (r : Nat) (v : Addr) (h : 0o36 ≤ r) : s.putM r v = s := by
  unfold State.putM
  rw [if_neg (by omega), if_neg (by omega), if_neg (by omega)]
  have : s.m.setIfInBounds (r - 1) v = s.m := Vector.setIfInBounds_eq_of_size_le (by omega)
  rw [this]

theorem State.right_congr {s t : State} (h : t.ruu = s.ruu) : t.right = s.right := by unfold State.right; rw [h]

theorem State.sup_congr {s t : State} (h : t.ruu = s.ruu) : t.sup = s.sup := by unfold State.sup; rw [h]

@[simp] theorem State.sup_putM (s : State) (r : Nat) (v : Addr) : (s.putM r v).sup = s.sup := State.sup_congr (by simp)

@[simp] theorem State.right_putM (s : State) (r : Nat) (v : Addr) : (s.putM r v).right = s.right :=
  State.right_congr (by simp)

end Sys2Proof.Machine
end

