-- ==== Sys2Proof/Laws/Mmu.lean ====
section
/-!
SUPPORT. What each operation of the Memory-Management Unit does, said once: translation, write-back, store, load,
prefetch, fetch. A proof about an instruction cites these and unfolds none of them.
-/
namespace Sys2Proof.Machine

/-! ### Translation -/

theorem frameMask_toNat (s : State) (h : s.cfg.wf) : s.frameMask.toNat = s.cfg.memWords / 1024 - 1 := by
  obtain ⟨-, h2, h3, -⟩ := h
  unfold State.frameMask
  rw [BitVec.toNat_ofNat]
  apply Nat.mod_eq_of_lt
  omega

/-- Every physical address formed is inside memory (R50, R82). -/
theorem State.Inv.phys_lt {s : State} (h : s.Inv) (av : Variant) : s.phys av < s.cfg.memWords := by
  have hw := h.params
  unfold State.phys
  split_ifs with hb
  · have := (av.setWidth 15).isLt
    obtain ⟨-, h2, -, -⟩ := hw
    omega
  · have hm := h.framesMasked ⟨(pageOf (av.setWidth 15)).toNat, (pageOf (av.setWidth 15)).isLt⟩
    have hf : (s.pages.frame (pageOf (av.setWidth 15))).toNat ≤ s.frameMask.toNat := by
      have : s.pages.frame (pageOf (av.setWidth 15)) &&& s.frameMask = s.pages.frame (pageOf (av.setWidth 15)) := hm
      rw [← this, BitVec.toNat_and]
      exact Nat.and_le_right
    rw [frameMask_toNat s hw] at hf
    have ho := (av.extractLsb' 0 10).isLt
    obtain ⟨h1, h2, h3, -⟩ := hw
    have : (av.extractLsb' 0 10).toNat < 1024 := ho
    omega

/-- Translation depends on the page table alone. -/
theorem State.phys_congr {s t : State} (h : t.pages = s.pages) (av : Variant) : t.phys av = s.phys av := by
  unfold State.phys; rw [h]

/-! ### Write-back and the victim -/

theorem State.emptySlot_empty (s : State) (k : Fin 8) (h : s.cache.baz[k] = 0) : s.emptySlot k = s := by
  have : s.cache.baz.set k 0 = s.cache.baz := by
    ext i hi
    rw [Vector.getElem_set]
    split_ifs with e
    · subst e; exact congrArg (·[_]) h.symm
    · rfl
  unfold State.emptySlot
  rw [this]

/-- `flush(k)` always completes (R62). -/
theorem flushSlot_eq {s : State} (h : ∀ av, s.phys av < s.cfg.memWords) (k : Fin 8) :
    flushSlot k s = .ok () (s.writtenBack k) := by
  unfold flushSlot State.writtenBack State.writeBackAddr
  simp only
  by_cases h0 : s.cache.baz[k] = 0
  · rw [if_pos h0, if_pos (Or.inl h0), State.emptySlot_empty s k h0]
  · by_cases h8 : s.phys s.cache.baz[k] < 8
    · rw [if_neg h0, if_pos h8, if_pos (Or.inr h8)]
    · rw [if_neg h0, if_neg h8, if_pos (h s.cache.baz[k]), if_neg (by tauto)]

/-- `victim()` is defined while the table encodes an order (R68). -/
theorem cacheVictim_eq {s : State} (k : Fin 8) (h : Recency.victim8 s.cache.tabst = some k) : cacheVictim s = .ok k s := by
  unfold cacheVictim; rw [h]

theorem State.Inv.exists_victim {s : State} (h : s.Inv) : ∃ k, Recency.victim8 s.cache.tabst = some k :=
  Recency.exists_victim8 _ h.cacheOrder

@[simp] theorem State.writtenBack_cfg (s : State) (k : Fin 8) : (s.writtenBack k).cfg = s.cfg := by
  unfold State.writtenBack; split <;> rfl

@[simp] theorem State.writtenBack_pages (s : State) (k : Fin 8) : (s.writtenBack k).pages = s.pages := by
  unfold State.writtenBack; split <;> rfl

@[simp] theorem State.writtenBack_cache (s : State) (k : Fin 8) :
    (s.writtenBack k).cache = { s.cache with baz := s.cache.baz.set k 0 } := by
  unfold State.writtenBack; split <;> rfl

/-- A write-back changes memory and the cache and nothing else. -/
theorem State.writtenBack_frame (s : State) (k : Fin 8) : ∃ m c, s.writtenBack k = { s with mem := m, cache := c } := by
  unfold State.writtenBack
  cases s.writeBackAddr k <;> exact ⟨_, _, rfl⟩

/-- A write-back writes no word but the one `writeBackAddr` names, and that word gets the slot's. -/
theorem State.writtenBack_mem (s : State) (k : Fin 8) :
    (s.writtenBack k).mem = match s.writeBackAddr k with
      | some p => Memory.write s.mem p s.cache.brz[k]
      | none => s.mem := by
  unfold State.writtenBack; cases s.writeBackAddr k <;> rfl

theorem State.writeBackAddr_range {s : State} (h : s.Inv) {k : Fin 8} {p : Nat} (hp : s.writeBackAddr k = some p) :
    8 ≤ p ∧ p < s.cfg.memWords := by
  unfold State.writeBackAddr at hp
  split_ifs at hp with hc
  push Not at hc
  simp only [Option.some.injEq] at hp
  subst hp
  exact ⟨hc.2, h.phys_lt _⟩

/-! ### Search -/

theorem Cache.search_some {c : Cache} {av : Variant} {k : Fin 8} (h : c.search av = some k) : c.baz[k] = av := by
  have := List.find?_some (p := fun k : Fin 8 => c.baz[k] == av) h
  simpa using this

theorem Cache.search_none {c : Cache} {av : Variant} (h : c.search av = none) (k : Fin 8) : c.baz[k] ≠ av := by
  have hm : k ∈ ([0, 1, 2, 3, 4, 5, 6, 7] : List (Fin 8)) := by fin_cases k <;> simp
  have := List.find?_eq_none.1 h k hm
  simpa using this

theorem Prefetch.search_some {c : Prefetch} {fv : Variant} {k : Fin 4} (h : c.search fv = some k) : c.bas[k] = fv := by
  have := List.find?_some (p := fun k : Fin 4 => c.bas[k] == fv) h
  simpa using this

/-! ### Store -/

/-- Everything a store can do (R64): discard at address 0, a fault that changes nothing, or `stored`. -/
theorem memWrite_eq {s : State} (h : s.Inv) (a : Addr) (v : Word) :
    memWrite a v s =
      if a = 0 then .ok () s
      else match s.dataFault true a with
        | some c => .raise c s
        | none => .ok () (s.stored a v) := by
  unfold memWrite
  by_cases h0 : a = 0
  · simp only [h0, if_true]
  · simp only [h0, if_false]
    cases s.dataFault true a with
    | some c => rfl
    | none =>
      simp only [State.stored]
      by_cases hc : s.cfg.cacheEnable = false
      · rw [if_pos hc, if_pos hc]
        unfold bypassStore
        by_cases hcon : isConsoleVariant (s.dataVariant a) = true
        · rw [if_pos hcon, if_pos hcon]
        · rw [if_neg hcon, if_neg hcon]
          exact flushSlot_eq (s := State.fillSlot { s with draws := s.draws + 1 } _ _ _) (fun av => h.phys_lt av) _
      · rw [if_neg hc, if_neg hc]
        by_cases hcon : isConsoleVariant (s.dataVariant a) = true
        · rw [if_pos hcon, if_pos hcon]
          obtain ⟨k, hk⟩ := h.exists_victim
          unfold sweepStep sweepSlot State.sweepTakes
          cases s.cfg.sweep with
          | byAge =>
            simp only [hk, cacheVictim_eq k hk, Res.andThen, flushSlot_eq h.phys_lt]
            split_ifs <;> rfl
          | byIndex =>
            simp only [Res.andThen, flushSlot_eq h.phys_lt]
            split_ifs <;> rfl
        · rw [if_neg hcon, if_neg hcon]
          unfold normalStore storeSlot
          cases hs : s.cache.search (s.dataVariant a) with
          | some k =>
            have hs' : (s.setFlush 0).cache.search (s.dataVariant a) = some k := hs
            simp only [hs', Res.andThen]
          | none =>
            have hs' : (s.setFlush 0).cache.search (s.dataVariant a) = none := hs
            obtain ⟨k, hk⟩ := h.exists_victim
            have hk' : Recency.victim8 (s.setFlush 0).cache.tabst = some k := hk
            have hp : ∀ av, (s.setFlush 0).phys av < (s.setFlush 0).cfg.memWords := h.phys_lt
            simp only [hs', Res.andThen, cacheVictim_eq k hk', flushSlot_eq hp, hk]

/-- A store changes memory, the write-back cache and the draw counter, and nothing else. -/
theorem State.stored_frame (s : State) (a : Addr) (v : Word) :
    ∃ m c d, s.stored a v = { s with mem := m, cache := c, draws := d } := by
  unfold State.stored
  simp only
  split_ifs
  · exact ⟨_, _, _, rfl⟩
  · obtain ⟨m, c, h⟩ := State.writtenBack_frame (State.fillSlot { s with draws := s.draws + 1 }
      (Config.bypassSlot s.draws) (s.dataVariant a) ⟨s.storeTag, v⟩) (Config.bypassSlot s.draws)
    rw [h]; exact ⟨_, _, _, rfl⟩
  · cases s.sweepTakes with
    | none => exact ⟨_, _, _, rfl⟩
    | some k =>
      simp only
      obtain ⟨m, c, h⟩ := State.writtenBack_frame s k
      rw [h]
      unfold State.advanceSweep
      simp only
      split_ifs <;> exact ⟨_, _, _, rfl⟩
  · cases s.sweepTakes <;> exact ⟨_, _, _, rfl⟩
  · cases s.cache.search (s.dataVariant a) with
    | some k => exact ⟨_, _, _, rfl⟩
    | none =>
      cases Recency.victim8 s.cache.tabst with
      | none => exact ⟨_, _, _, rfl⟩
      | some k =>
        simp only
        obtain ⟨m, c, h⟩ := State.writtenBack_frame (s.setFlush 0) k
        rw [h]; exact ⟨_, _, _, rfl⟩

/-! ### Load -/

/-- Everything a load can do (R70 to R72). -/
theorem memRead_eq {s : State} (h : s.Inv) (a : Addr) :
    memRead a s =
      if a = 0 then .ok 0 s
      else match s.dataFault false a with
        | some c => .raise c s
        | none =>
          match (if s.cfg.cacheEnable then s.cache.search (s.dataVariant a) else none) with
          | some k =>
            let t := if Recency.victim8 s.cache.tabst = some k then s else s.touch k
            if s.cache.brz[k].tag = TWord.numberTag then .ok s.cache.brz[k].data t
            else .raise (.cacheCheck (BitVec.ofNat 3 k)) t
          | none =>
            let p := s.phys (s.dataVariant a)
            if p < 8 then .ok (s.consoleAt p) s
            else if (Memory.read s.mem p).tag = TWord.numberTag then .ok (Memory.read s.mem p).data s
            else .raise (.ramCheck (BitVec.ofNat 3 p)) s := by
  unfold memRead
  by_cases h0 : a = 0
  · simp only [h0, if_true]
  · simp only [h0, if_false]
    cases s.dataFault false a with
    | some c => rfl
    | none =>
      simp only
      cases (if s.cfg.cacheEnable = true then s.cache.search (s.dataVariant a) else none) with
      | some k =>
        obtain ⟨v, hv⟩ := h.exists_victim
        simp only [loadHit, cacheVictim_eq v hv, Res.andThen, hv, Option.some.injEq]
        by_cases hk : k = v
        · simp [hk]
        · simp [hk, Ne.symm hk]
      | none => simp only [loadMiss, h.phys_lt, if_true]

/-- A load that completes leaves at most a promotion. -/
theorem memRead_ok {s t : State} {a : Addr} {x : Word} (h : s.Inv) (hw : memRead a s = .ok x t) :
    t = s ∨ ∃ k, t = s.touch k := by
  rw [memRead_eq h] at hw
  simp only at hw
  repeat' split at hw
  all_goals first | (cases hw; exact .inl rfl) | (cases hw; exact .inr ⟨_, rfl⟩) | cases hw

/-- A load that raises leaves at most a promotion (R72, R160 (e)). -/
theorem memRead_raise {s t : State} {a : Addr} {c : Cause} (h : s.Inv) (hw : memRead a s = .raise c t) :
    t = s ∨ ∃ k, t = s.touch k := by
  rw [memRead_eq h] at hw
  simp only at hw
  repeat' split at hw
  all_goals first | (cases hw; exact .inl rfl) | (cases hw; exact .inr ⟨_, rfl⟩) | cases hw

/-- A load is never stuck. -/
theorem memRead_not_stuck {s : State} {a : Addr} {x : Stuck} (h : s.Inv) : memRead a s ≠ .stuck x := by
  intro hw
  rw [memRead_eq h] at hw
  simp only at hw
  repeat' split at hw
  all_goals cases hw

/-! ### Prefetch and fetch -/

/-- `prefetch(fv, true)` always completes (R75). -/
theorem prefetch_eq {s : State} (h : s.Inv) (fv : Variant) :
    prefetch fv true s = .ok (s.codeAt fv) { s with prefetch := s.prefetched fv } := by
  unfold prefetch State.codeAt State.prefetched
  have hp := h.phys_lt fv
  by_cases hc : s.cfg.cacheEnable = true
  · simp only [hc, if_true]
    cases hs : s.prefetch.search fv with
    | some k => rfl
    | none =>
      obtain ⟨k, hk⟩ := Recency.exists_victim4 _ h.prefetchOrder
      simp only [hk, hp, if_true]
      rfl
  · simp only [hc, if_false, hp, if_true, Bool.false_eq_true]

/-- The look-ahead probe after a left half always completes (R79). -/
theorem probe_eq {s : State} (h : s.Inv) (hr : s.right = false) :
    probe (s.fetchVariant (s.pc + 1)) s = .ok () { s with prefetch := s.lookahead } := by
  unfold probe prefetch State.lookahead
  have hp := h.phys_lt (s.fetchVariant (s.pc + 1))
  by_cases hc : s.cfg.cacheEnable = true
  · simp only [hc, hr, if_true, Bool.false_or, Bool.not_true]
    cases hs : s.prefetch.search (s.fetchVariant (s.pc + 1)) with
    | some k => simp [Res.andThen, Prefetch.promote]
    | none =>
      obtain ⟨k, hk⟩ := Recency.exists_victim4 _ h.prefetchOrder
      simp only [hk, hp, if_true, Res.andThen, Prefetch.promote]
      simp
  · simp [hc]

/-- Everything a fetch can do (R78). -/
theorem fetchWord_eq {s : State} (h : s.Inv) (a : Addr) :
    fetchWord a s =
      if a = 0 then .raise .insnCheck s
      else if s.sup = false ∧ s.pages.frame (pageOf a) = 0 then .raise .insnProt s
      else if s.ibp = s.fetchVariant a then .raise .insnBreakpoint s
      else if (s.codeAt (s.fetchVariant a)).tag = TWord.instructionTag then
        .ok (s.codeAt (s.fetchVariant a)).data { s with prefetch := s.prefetched (s.fetchVariant a) }
      else .raise .insnCheck { s with prefetch := s.prefetched (s.fetchVariant a) } := by
  unfold fetchWord
  rw [prefetch_eq h]
  simp only [Res.andThen, Bool.and_eq_true, Bool.not_eq_true', beq_iff_eq]

end Sys2Proof.Machine
end

