-- ==== Sys2Proof/Laws/Cycle.lean ====
section
/-!
SUPPORT. The cycle around an instruction: the advance, the end of a cycle that completed, and how the operations of an
instruction commute with the advance, so that a rule can be read at the state before it.
-/
namespace Sys2Proof.Machine

/-! ### The advance -/

/-- The advance always completes (R153). -/
theorem advance_eq {s : State} (h : s.Inv) :
    advance s = .ok (s.right && s.pc == 0o77777) (s.stepOver s.lookahead) := by
  unfold advance
  by_cases hr : s.right = true
  · rw [if_pos hr]
    have hl : s.lookahead = s.prefetch := by unfold State.lookahead; simp [hr]
    rw [hl, hr]
    simp only [State.stepOver, hr, Bool.true_and, if_true, Bool.not_true]
    rfl
  · have hr' : s.right = false := by simpa using hr
    rw [if_neg hr, probe_eq h hr']
    simp only [Res.andThen, State.stepOver, hr', Bool.false_and, Bool.false_eq_true, if_false, Bool.not_false]
    rfl

/-! ### What the advance leaves -/

section stepOver
variable (s : State) (c : Prefetch)

@[simp] theorem State.stepOver_acc : (s.stepOver c).acc = s.acc := rfl
@[simp] theorem State.stepOver_rmr : (s.stepOver c).rmr = s.rmr := rfl
@[simp] theorem State.stepOver_rau : (s.stepOver c).rau = s.rau := rfl
@[simp] theorem State.stepOver_m : (s.stepOver c).m = s.m := rfl
@[simp] theorem State.stepOver_ibp : (s.stepOver c).ibp = s.ibp := rfl
@[simp] theorem State.stepOver_dwp : (s.stepOver c).dwp = s.dwp := rfl
@[simp] theorem State.stepOver_grp : (s.stepOver c).grp = s.grp := rfl
@[simp] theorem State.stepOver_mgrp : (s.stepOver c).mgrp = s.mgrp := rfl
@[simp] theorem State.stepOver_prp : (s.stepOver c).prp = s.prp := rfl
@[simp] theorem State.stepOver_mprp : (s.stepOver c).mprp = s.mprp := rfl
@[simp] theorem State.stepOver_cache : (s.stepOver c).cache = s.cache := rfl
@[simp] theorem State.stepOver_prefetch : (s.stepOver c).prefetch = c := rfl
@[simp] theorem State.stepOver_pages : (s.stepOver c).pages = s.pages := rfl
@[simp] theorem State.stepOver_mem : (s.stepOver c).mem = s.mem := rfl
@[simp] theorem State.stepOver_inDispatch : (s.stepOver c).inDispatch = s.inDispatch := rfl
@[simp] theorem State.stepOver_stopped : (s.stepOver c).stopped = s.stopped := rfl
@[simp] theorem State.stepOver_ioOut : (s.stepOver c).ioOut = s.ioOut := rfl
@[simp] theorem State.stepOver_draws : (s.stepOver c).draws = s.draws := rfl
@[simp] theorem State.stepOver_host : (s.stepOver c).host = s.host := rfl
@[simp] theorem State.stepOver_cfg : (s.stepOver c).cfg = s.cfg := rfl
@[simp] theorem State.stepOver_ruu : (s.stepOver c).ruu = setBit s.ruu 8 (!s.right) := rfl

@[simp] theorem State.getM_stepOver (r : Nat) : (s.stepOver c).getM r = s.getM r := rfl
@[simp] theorem State.psw_stepOver : (s.stepOver c).psw = s.psw := rfl
@[simp] theorem State.spsw_stepOver : (s.stepOver c).spsw = s.spsw := rfl
@[simp] theorem State.sp_stepOver : (s.stepOver c).sp = s.sp := rfl
@[simp] theorem State.execAddr_stepOver (reg : BitVec 4) (a : Addr) :
    (s.stepOver c).execAddr reg a = s.execAddr reg a := rfl

@[simp] theorem State.right_stepOver : (s.stepOver c).right = !s.right := setBit_self _ _ _ (by omega)

@[simp] theorem State.sup_stepOver : (s.stepOver c).sup = s.sup := by
  unfold State.sup; rw [State.stepOver_ruu, setBit_other _ 8 _ 2 (by omega), setBit_other _ 8 _ 3 (by omega)]

@[simp] theorem State.modPending_stepOver : (s.stepOver c).modPending = s.modPending := by
  unfold State.modPending; rw [State.stepOver_ruu]; exact setBit_other _ _ _ 4 (by omega)

@[simp] theorem State.storeTag_stepOver : (s.stepOver c).storeTag = s.storeTag := State.storeTag_setRight s (!s.right)

@[simp] theorem State.sel_stepOver (n : Addr) : (s.stepOver c).sel n = s.sel n := by
  unfold State.sel; rw [State.sup_stepOver]

@[simp] theorem State.modified_stepOver (a : Addr) : (s.stepOver c).modified a = s.modified a := by
  unfold State.modified; rw [State.modPending_stepOver]; rfl

@[simp] theorem State.putM_stepOver (r : Nat) (v : Addr) : (s.stepOver c).putM r v = (s.putM r v).stepOver c := by
  unfold State.putM; split_ifs <;> rfl

@[simp] theorem State.phys_stepOver (av : Variant) : (s.stepOver c).phys av = s.phys av := rfl
@[simp] theorem State.consoleAt_stepOver (p : Nat) : (s.stepOver c).consoleAt p = s.consoleAt p := rfl
@[simp] theorem State.dataVariant_stepOver (a : Addr) : (s.stepOver c).dataVariant a = s.dataVariant a := rfl

@[simp] theorem State.touch_stepOver (k : Fin 8) : (s.stepOver c).touch k = (s.touch k).stepOver c := rfl

@[simp] theorem State.loadPswBits_stepOver (reg : BitVec 4) (a : Addr) :
    (s.stepOver c).loadPswBits reg a = (s.loadPswBits reg a).stepOver c := by
  unfold State.loadPswBits
  rw [State.sup_stepOver, State.psw_stepOver, State.putM_stepOver]
  split_ifs <;> rfl

/-- The advance of a state that differs in neither PC nor `RUU.RIGHT`. -/
theorem State.stepOver_congr {t : State} (hp : t.pc = s.pc) (hr : t.ruu = s.ruu) :
    (t.stepOver c).pc = (s.stepOver c).pc ∧ (t.stepOver c).ruu = (s.stepOver c).ruu := by
  constructor
  · show (if t.right then t.pc + 1 else t.pc) = if s.right then s.pc + 1 else s.pc
    rw [State.right_congr hr, hp]
  · rw [State.stepOver_ruu, State.stepOver_ruu, State.right_congr hr, hr]

end stepOver

/-! ### Loads, stores and operands before and after the advance -/

/-- A result at the state the advance leaves. -/
def Res.over {α : Type} (c : Prefetch) : Res α → Res α
  | .ok a s => .ok a (s.stepOver c)
  | .raise x s => .raise x (s.stepOver c)
  | .stuck x => .stuck x

theorem State.dataFault_stepOver (s : State) (c : Prefetch) (store : Bool) (a : Addr) :
    (s.stepOver c).dataFault store a = s.dataFault store a := by
  unfold State.dataFault State.isClosed
  rw [State.sup_stepOver]
  rfl

/-- A load does not depend on what the advance changes (R86 (b)). -/
theorem memRead_stepOver (s : State) (c : Prefetch) (a : Addr) : memRead a (s.stepOver c) = (memRead a s).over c := by
  unfold memRead
  rw [State.dataFault_stepOver]
  by_cases h0 : a = 0
  · rw [if_pos h0, if_pos h0]; rfl
  · rw [if_neg h0, if_neg h0]
    cases s.dataFault false a with
    | some x => rfl
    | none =>
      show (match (if s.cfg.cacheEnable = true then s.cache.search (s.dataVariant a) else none) with
        | some k => loadHit k (s.stepOver c)
        | none => loadMiss (s.dataVariant a) (s.stepOver c)) = _
      simp only
      cases (if s.cfg.cacheEnable = true then s.cache.search (s.dataVariant a) else none) with
      | some k =>
        simp only [loadHit, cacheVictim, State.stepOver_cache]
        cases Recency.victim8 s.cache.tabst with
        | none => rfl
        | some v =>
          simp only [Res.andThen, State.stepOver_cache, State.touch_stepOver]
          by_cases h2 : s.cache.brz[k].tag = TWord.numberTag <;> by_cases h1 : k = v <;>
            simp only [h2, if_true, if_false] <;> simp only [h1, if_true, if_false, Res.over]
      | none =>
        simp only [loadMiss, State.phys_stepOver, State.stepOver_mem, State.stepOver_cfg, State.consoleAt_stepOver]
        by_cases h1 : s.phys (s.dataVariant a) < 8
        · simp only [h1, if_true, Res.over]
        · by_cases h2 : s.phys (s.dataVariant a) < s.cfg.memWords
          · by_cases h3 : (Memory.read s.mem (s.phys (s.dataVariant a))).tag = TWord.numberTag <;>
              simp only [h1, h2, h3, if_true, if_false, Res.over]
          · simp only [h1, h2, if_false, Res.over]

theorem State.writtenBack_stepOver (s : State) (c : Prefetch) (k : Fin 8) :
    (s.stepOver c).writtenBack k = (s.writtenBack k).stepOver c := by
  unfold State.writtenBack
  have : (s.stepOver c).writeBackAddr k = s.writeBackAddr k := rfl
  rw [this]
  cases s.writeBackAddr k <;> rfl

theorem State.advanceSweep_stepOver (s : State) (c : Prefetch) :
    (s.stepOver c).advanceSweep = s.advanceSweep.stepOver c := by
  unfold State.advanceSweep
  simp only [State.stepOver_cache, State.setFlush_cache]
  by_cases h : s.cache.flush + 1 = 8
  · simp only [h, if_true]; rfl
  · simp only [h, if_false]; rfl

theorem State.stored_stepOver (s : State) (c : Prefetch) (a : Addr) (v : Word) :
    (s.stepOver c).stored a v = (s.stored a v).stepOver c := by
  unfold State.stored
  rw [State.storeTag_stepOver]
  simp only
  by_cases hc : s.cfg.cacheEnable = false
  · rw [if_pos hc, if_pos (show (s.stepOver c).cfg.cacheEnable = false from hc)]
    by_cases hk : isConsoleVariant (s.dataVariant a) = true
    · rw [if_pos hk, if_pos (show isConsoleVariant ((s.stepOver c).dataVariant a) = true from hk)]
    · rw [if_neg hk, if_neg (show ¬ isConsoleVariant ((s.stepOver c).dataVariant a) = true from hk),
        ← State.writtenBack_stepOver]
      rfl
  · rw [if_neg hc, if_neg (show ¬ (s.stepOver c).cfg.cacheEnable = false from hc)]
    by_cases hk : isConsoleVariant (s.dataVariant a) = true
    · rw [if_pos hk, if_pos (show isConsoleVariant ((s.stepOver c).dataVariant a) = true from hk)]
      show (match s.sweepTakes with | some k => _ | none => _) = _
      cases s.sweepTakes with
      | none => rfl
      | some k =>
        simp only [State.stepOver_cache]
        rw [State.writtenBack_stepOver]
        by_cases hf : s.cache.flush.toNat < 8
        · simp only [hf, if_true, State.touch_stepOver, State.advanceSweep_stepOver]
        · simp only [hf, if_false]
    · rw [if_neg hk, if_neg (show ¬ isConsoleVariant ((s.stepOver c).dataVariant a) = true from hk)]
      show (match s.cache.search (s.dataVariant a) with | some k => _ | none => _) = _
      cases s.cache.search (s.dataVariant a) with
      | some k => rfl
      | none =>
        show (match Recency.victim8 s.cache.tabst with | some k => _ | none => _) = _
        simp only
        cases Recency.victim8 s.cache.tabst with
        | none => rfl
        | some k =>
          simp only
          rw [show (s.stepOver c).setFlush 0 = (s.setFlush 0).stepOver c from rfl, State.writtenBack_stepOver]
          rfl

/-- A store does not depend on what the advance changes. -/
theorem memWrite_stepOver {s : State} (h : s.Inv) (c : Prefetch) (h' : (s.stepOver c).Inv) (a : Addr) (v : Word) :
    memWrite a v (s.stepOver c) = (memWrite a v s).over c := by
  rw [memWrite_eq h, memWrite_eq h', State.dataFault_stepOver, State.stored_stepOver]
  by_cases h0 : a = 0
  · simp only [h0, if_true, Res.over]
  · simp only [h0, if_false]
    cases s.dataFault true a <;> rfl

/-- `LoadOperand` after the advance, where the load completes: the rest of the instruction, with the stack pointer restored
if it raises in the pop form. -/
theorem withOperand_ok {α : Type} {reg : BitVec 4} {a : Addr} {s u : State} {x : Word} (c : Prefetch)
    (rest : Word → State → Res α) (h : operandAt reg a s = .ok x u) :
    withOperand reg a (s.stepOver c) rest =
      if isStackForm reg a then (rest x (u.stepOver c)).undoing 1 else rest x (u.stepOver c) := by
  unfold operandAt withOperand loadAt at h
  unfold withOperand loadAt
  simp only [State.sp_stepOver, State.setSp, State.putM_stepOver, State.execAddr_stepOver, memRead_stepOver] at h ⊢
  split_ifs at h ⊢
  · generalize memRead _ _ = r at h
    cases r with
    | ok y v => cases h; rfl
    | raise z v => cases h
    | stuck z => cases h
  · generalize memRead _ _ = r at h
    cases r with
    | ok y v => cases h; rfl
    | raise z v => cases h
    | stuck z => cases h

/-- `LoadOperand` after the advance, where the load raises. -/
theorem withOperand_raise {α : Type} {reg : BitVec 4} {a : Addr} {s u : State} {z : Cause} (c : Prefetch)
    (rest : Word → State → Res α) (h : operandAt reg a s = .raise z u) :
    withOperand reg a (s.stepOver c) rest = .raise z (u.stepOver c) := by
  unfold operandAt withOperand loadAt at h
  unfold withOperand loadAt
  simp only [State.sp_stepOver, State.setSp, State.putM_stepOver, State.execAddr_stepOver, memRead_stepOver] at h ⊢
  split_ifs at h ⊢
  · generalize memRead _ _ = r at h
    cases r with
    | ok y v => cases h
    | raise w v =>
      cases h
      simp only [Res.over, Res.andThen, Res.undoing, State.sp_stepOver, State.putM_stepOver]
    | stuck w => cases h
  · generalize memRead _ _ = r at h
    cases r with
    | ok y v => cases h
    | raise w v => cases h; rfl
    | stuck w => cases h

/-! ### From decoding to the end of the cycle -/

/-- One half-instruction: its own part runs at the state the advance leaves, on the address field with the pending
modifier. -/
theorem runHalf_eq {s : State} (h : s.Inv) (addr : Addr) (body : Addr → State → Res Flow) :
    runHalf addr s body =
      finish (s.right && s.pc == 0o77777) (body (s.modified addr) (s.stepOver s.lookahead)) := by
  unfold runHalf
  rw [advance_eq h]
  simp only [State.modified_stepOver]

/-- The end of a cycle whose instruction completed. -/
theorem State.endCycle_of_completed (s : State) (w : Bool) (f : Flow) (h : f.stop ≠ some .unimplemented) :
    s.endCycle w f = s.completeCycle w f := if_neg h

/-- The end of a cycle that fell through. -/
theorem State.endCycle_seq {s u : State} (c : Prefetch) (hp : u.pc = s.pc) (hr : u.right = s.right) :
    (u.stepOver c).endCycle (s.right && s.pc == 0o77777) .seq = u.seqEnd c := by
  rw [State.endCycle_of_completed _ _ _ (by decide)]
  unfold State.completeCycle State.armModifier State.seqEnd Flow.stopCode Flow.seq
  rw [hp, hr]
  by_cases hw : (s.right && s.pc == 0o77777) = true
  · simp only [hw, if_true, Bool.not_false, Bool.and_true]; rfl
  · simp only [hw, if_true, Bool.not_false, Bool.and_true, if_false, Bool.false_eq_true]; rfl

theorem setBit_setBit {w : Nat} (x : BitVec w) (i : Nat) (a b : Bool) : setBit (setBit x i a) i b = setBit x i b := by
  ext j hj
  rw [← BitVec.getLsbD_eq_getElem, ← BitVec.getLsbD_eq_getElem, getLsbD_setBit _ _ _ _ hj, getLsbD_setBit _ _ _ _ hj,
    getLsbD_setBit _ _ _ _ hj]
  split_ifs <;> rfl

/-- The end of a cycle that transferred control. -/
theorem State.endCycle_jump (u : State) (c : Prefetch) (w : Bool) (target : Addr) :
    ((u.stepOver c).jump target).endCycle w .jump = u.jumpEnd c target := by
  rw [State.endCycle_of_completed _ _ _ (by decide)]
  unfold State.completeCycle State.armModifier State.jumpEnd Flow.stopCode Flow.jump Flow.seq State.jump State.setModPending
  simp only [if_true, Bool.not_true, Bool.and_false, Bool.false_eq_true, if_false]
  unfold State.setRight State.stepOver
  simp only [setBit_setBit]

/-- The end of a cycle that produced a modifier. -/
theorem State.endCycle_modify {s u : State} (c : Prefetch) (m : Addr) (hp : u.pc = s.pc) (hr : u.right = s.right) :
    (u.stepOver c).endCycle (s.right && s.pc == 0o77777) (.modify m) = u.modifierEnd c m := by
  unfold State.modifierEnd
  by_cases hm : m = 0
  · rw [if_pos hm, hm]; exact State.endCycle_seq c hp hr
  · rw [if_neg hm]
    rw [State.endCycle_of_completed _ _ _ (by simp [Flow.modify, Flow.seq])]
    unfold State.completeCycle State.armModifier State.seqEnd Flow.stopCode Flow.modify Flow.seq
    simp only [hm, if_false, State.putM_stepOver, State.putM_pc, State.right_putM]
    rw [hp, hr]
    by_cases hw : (s.right && s.pc == 0o77777) = true
    · simp only [hw, if_true, Bool.not_false, Bool.and_true, setBit_setBit]; rfl
    · simp only [hw, Bool.not_false, Bool.and_true, if_false, Bool.false_eq_true, setBit_setBit]; rfl

/-- The end of a cycle whose instruction was `stop` and stopped the run. -/
theorem State.endCycle_halt {u : State} (c : Prefetch) (w : Bool) :
    (u.stepOver c).endCycle w (.halt .halt) = u.haltEnd c .halt := State.endCycle_of_completed _ _ _ (by decide)

/-- The end of a cycle that stopped with `Unimplemented`: the advance alone (S2). -/
theorem State.endCycle_unimplemented (s : State) (w : Bool) :
    s.endCycle w (.halt .unimplemented) = s.stopWith .unimplemented := rfl

end Sys2Proof.Machine
end

