-- ==== Sys2Proof/Laws/Invariant.lean ====
section
/-!
SUPPORT. The invariant through each shared operation: the canonical form and the range of memory, the recency orders, the
distinct cache addresses, the page table, the unimplemented bits of RUU.
-/
namespace Sys2Proof.Machine

/-! ### The unimplemented bits of RUU -/

theorem reserved_iff (x : BitVec 9) : x &&& 0o300 = 0 ↔ x.getLsbD 6 = false ∧ x.getLsbD 7 = false := by
  constructor
  · intro h
    have h6 := congrArg (·.getLsbD 6) h
    have h7 := congrArg (·.getLsbD 7) h
    simp only [BitVec.getLsbD_and] at h6 h7
    exact ⟨by simpa using h6, by simpa using h7⟩
  · rintro ⟨h6, h7⟩
    ext i hi
    simp only [← BitVec.getLsbD_eq_getElem, BitVec.getLsbD_and]
    interval_cases i <;> simp_all

theorem reserved_setBit (x : BitVec 9) (i : Nat) (b : Bool) (h6 : i ≠ 6) (h7 : i ≠ 7) (h : x &&& 0o300 = 0) :
    setBit x i b &&& 0o300 = 0 := by
  rw [reserved_iff] at h ⊢
  rw [setBit_other _ _ _ 6 (by omega), setBit_other _ _ _ 7 (by omega)]
  exact h

theorem reserved_setMode (x : BitVec 9) (k : BitVec 2) (h : x &&& 0o300 = 0) : setField x 2 k &&& 0o300 = 0 := by
  rw [reserved_iff] at h ⊢
  rw [getLsbD_setField _ _ _ (by omega) 6 (by omega), getLsbD_setField _ _ _ (by omega) 7 (by omega)]
  simpa using h

/-! ### Updates that do not touch what the invariant speaks of -/

/-- The invariant speaks of the parameters, memory, both caches, the page table and RUU alone. -/
theorem State.Inv.congr {s t : State} (h : s.Inv) (hcfg : t.cfg = s.cfg) (hmem : t.mem = s.mem) (hcache : t.cache = s.cache)
    (hpre : t.prefetch.lru = s.prefetch.lru) (hpages : t.pages.rp = s.pages.rp ∧ t.pages.tlb = s.pages.tlb)
    (hruu : t.ruu &&& 0o300 = 0) : t.Inv where
  params := by rw [hcfg]; exact h.params
  memWf := by rw [hmem]; exact h.memWf
  memRange := by rw [hmem, hcfg]; exact h.memRange
  cacheOrder := by rw [hcache]; exact h.cacheOrder
  prefetchOrder := by rw [hpre]; exact h.prefetchOrder
  slotsDistinct := by rw [hcache]; exact h.slotsDistinct
  sweepCount := by rw [hcache]; exact h.sweepCount
  pagesAgree := by rw [hpages.1, hpages.2]; exact h.pagesAgree
  framesMasked := by
    have : t.frameMask = s.frameMask := by unfold State.frameMask; rw [hcfg]
    rw [hpages.2, this]; exact h.framesMasked
  ruuReserved := hruu

/-- An update of registers outside RUU keeps the invariant. -/
theorem State.Inv.registers {s t : State} (h : s.Inv) (hcfg : t.cfg = s.cfg) (hmem : t.mem = s.mem) (hcache : t.cache = s.cache)
    (hpre : t.prefetch = s.prefetch) (hpages : t.pages = s.pages) (hruu : t.ruu = s.ruu) : t.Inv :=
  h.congr hcfg hmem hcache (by rw [hpre]) ⟨by rw [hpages], by rw [hpages]⟩ (by rw [hruu]; exact h.ruuReserved)

theorem State.Inv.putM {s : State} (h : s.Inv) (r : Nat) (v : Addr) : (s.putM r v).Inv :=
  h.registers (by simp) (by simp) (by simp) (by simp) (by simp) (by simp)

theorem State.Inv.setRuu {s : State} (h : s.Inv) (x : BitVec 9) (hx : x &&& 0o300 = 0) : { s with ruu := x }.Inv :=
  h.congr rfl rfl rfl rfl ⟨rfl, rfl⟩ hx

theorem State.Inv.setPrefetch {s : State} (h : s.Inv) (c : Prefetch) (hc : Recency.isOrder Recency.row4 4 c.lru) :
    { s with prefetch := c }.Inv :=
  { h with prefetchOrder := hc }

theorem State.Inv.setRight {s : State} (h : s.Inv) (b : Bool) : (s.setRight b).Inv :=
  h.setRuu _ (reserved_setBit _ 8 b (by omega) (by omega) h.ruuReserved)

theorem State.Inv.setModPending {s : State} (h : s.Inv) (b : Bool) : (s.setModPending b).Inv :=
  h.setRuu _ (reserved_setBit _ 4 b (by omega) (by omega) h.ruuReserved)

theorem State.Inv.setMode {s : State} (h : s.Inv) (k : BitVec 2) : (s.setMode k).Inv :=
  h.setRuu _ (reserved_setMode _ k h.ruuReserved)

theorem State.Inv.jump {s : State} (h : s.Inv) (t : Addr) : (s.jump t).Inv :=
  State.Inv.setRight (s := { s with pc := t }) (h.registers rfl rfl rfl rfl rfl rfl) false

theorem State.Inv.stopWith {s : State} (h : s.Inv) (c : StopCode) : (s.stopWith c).Inv :=
  h.registers rfl rfl rfl rfl rfl rfl

/-! ### The prefetch cache -/

/-- The look-ahead leaves the order of the prefetch slots (R75). -/
theorem State.lookahead_lru (s : State) : s.lookahead.lru = s.prefetch.lru := by
  unfold State.lookahead
  simp only
  split_ifs
  · rfl
  · cases Recency.victim4 s.prefetch.lru <;> rfl

theorem State.Inv.stepOver {s : State} (h : s.Inv) (c : Prefetch) (hc : c.lru = s.prefetch.lru) : (s.stepOver c).Inv :=
  h.congr rfl rfl rfl hc ⟨rfl, rfl⟩ (reserved_setBit _ 8 _ (by omega) (by omega) h.ruuReserved)

theorem State.Inv.stepOver_lookahead {s : State} (h : s.Inv) : (s.stepOver s.lookahead).Inv :=
  h.stepOver _ s.lookahead_lru

theorem State.Inv.prefetched {s : State} (h : s.Inv) (fv : Variant) : { s with prefetch := s.prefetched fv }.Inv := by
  apply h.setPrefetch
  unfold State.prefetched
  split_ifs
  · cases s.prefetch.search fv with
    | some k => exact Recency.isOrder_setWins4 _ k h.prefetchOrder
    | none =>
      cases Recency.victim4 s.prefetch.lru with
      | some k => exact Recency.isOrder_setWins4 _ k h.prefetchOrder
      | none => exact h.prefetchOrder
  · exact h.prefetchOrder

/-! ### The write-back cache and memory -/

theorem State.Inv.setCache {s : State} (h : s.Inv) (c : Cache) (ho : Recency.isOrder Recency.row8 8 c.tabst)
    (hd : ∀ i j : Fin 8, i ≠ j → c.baz[i] = c.baz[j] → c.baz[i] = 0) (hf : c.flush.toNat ≤ 8) :
    { s with cache := c }.Inv :=
  { h with cacheOrder := ho, slotsDistinct := hd, sweepCount := hf }

theorem State.Inv.putWord {s : State} (h : s.Inv) (p : Nat) (w : TWord) (hp : p < s.cfg.memWords) :
    (s.putWord p w).Inv :=
  { h with memWf := Memory.wf_write _ _ _ h.memWf, memRange := Memory.range_write _ _ _ _ h.memRange hp }

theorem State.Inv.touch {s : State} (h : s.Inv) (k : Fin 8) : (s.touch k).Inv :=
  h.setCache _ (Recency.isOrder_setWins8 _ k h.cacheOrder) h.slotsDistinct h.sweepCount

theorem State.Inv.setFlush {s : State} (h : s.Inv) (n : BitVec 4) (hn : n.toNat ≤ 8) : (s.setFlush n).Inv :=
  h.setCache _ h.cacheOrder h.slotsDistinct hn

theorem State.Inv.clearOrder {s : State} (h : s.Inv) : s.clearOrder.Inv :=
  h.setCache _ (Recency.isOrder_zero _ _ _) h.slotsDistinct h.sweepCount

theorem getElem_set_fin {α : Type} {n : Nat} (v : Vector α n) (k i : Fin n) (x : α) :
    (v.set k x)[i] = if k = i then x else v[i] := by
  show (v.set k.val x k.isLt)[i.val] = if k = i then x else v[i.val]
  rw [Vector.getElem_set]
  by_cases h : k = i
  · rw [if_pos (congrArg Fin.val h), if_pos h]
  · rw [if_neg (fun e => h (Fin.ext e)), if_neg h]

theorem State.Inv.emptySlot {s : State} (h : s.Inv) (k : Fin 8) : (s.emptySlot k).Inv := by
  refine h.setCache _ h.cacheOrder ?_ h.sweepCount
  intro i j hij he
  simp only [getElem_set_fin] at he ⊢
  split_ifs at he ⊢ with h1 h2 h2
  · rfl
  · rfl
  · exact he
  · exact h.slotsDistinct i j hij he

theorem State.Inv.fillSlot {s : State} (h : s.Inv) (k : Fin 8) (av : Variant) (w : TWord)
    (hd : ∀ i : Fin 8, i ≠ k → s.cache.baz[i] ≠ av ∨ av = 0) : (s.fillSlot k av w).Inv := by
  refine h.setCache _ h.cacheOrder ?_ h.sweepCount
  intro i j hij he
  simp only [getElem_set_fin] at he ⊢
  split_ifs at he ⊢ with h1 h2 h2
  · exact absurd (h1.symm.trans h2) hij
  · rcases hd j (Ne.symm h2) with hd | hd
    · exact absurd he.symm hd
    · exact hd
  · rcases hd i (Ne.symm h1) with hd | hd
    · exact absurd he hd
    · rw [he]; exact hd
  · exact h.slotsDistinct i j hij he

theorem State.Inv.writtenBack {s : State} (h : s.Inv) (k : Fin 8) : (s.writtenBack k).Inv := by
  unfold State.writtenBack
  cases hp : s.writeBackAddr k with
  | none => exact h.emptySlot k
  | some p =>
    exact (h.putWord p _ (State.writeBackAddr_range h hp).2).emptySlot k

theorem State.Inv.advanceSweep {s : State} (h : s.Inv) (hf : s.cache.flush.toNat < 8) : s.advanceSweep.Inv := by
  have hn : (s.cache.flush + 1).toNat ≤ 8 := by rw [BitVec.toNat_add]; simp only [BitVec.reduceToNat]; omega
  unfold State.advanceSweep
  simp only
  split_ifs
  · exact (h.setFlush _ hn).clearOrder
  · exact h.setFlush _ hn

theorem State.dataVariant_ne_zero (s : State) {a : Addr} (ha : a ≠ 0) : s.dataVariant a ≠ 0 := by
  intro h
  apply ha
  have := congrArg (BitVec.setWidth 15) h
  unfold State.dataVariant at this
  rw [variant_setWidth] at this
  simpa using this

/-- A store keeps the invariant. -/
theorem State.Inv.stored {s : State} (h : s.Inv) (a : Addr) (v : Word) : (s.stored a v).Inv := by
  unfold State.stored
  simp only
  split_ifs with hc hk hk
  · exact h
  · have hs : ({ s with draws := s.draws + 1 } : State).Inv := h.registers rfl rfl rfl rfl rfl rfl
    unfold State.writtenBack
    set k := Config.bypassSlot s.draws
    have key : ∀ u : State, u = State.fillSlot { s with draws := s.draws + 1 } k (s.dataVariant a) ⟨s.storeTag, v⟩ →
        (u.emptySlot k).Inv := by
      rintro u rfl
      refine (hs.emptySlot k).setCache
        { brz := s.cache.brz.set k ⟨s.storeTag, v⟩, baz := (s.cache.baz.set k (s.dataVariant a)).set k 0,
          tabst := s.cache.tabst, flush := s.cache.flush } h.cacheOrder ?_ h.sweepCount
      intro i j hij he
      simp only [getElem_set_fin] at he ⊢
      split_ifs at he ⊢ with h1 h2 h2
      · rfl
      · rfl
      · exact he
      · exact h.slotsDistinct i j hij he
    cases hp : State.writeBackAddr (State.fillSlot { s with draws := s.draws + 1 } k (s.dataVariant a) ⟨s.storeTag, v⟩) k with
    | none => exact key _ rfl
    | some p =>
      have hr : p < s.cfg.memWords := by
        unfold State.writeBackAddr at hp
        split_ifs at hp
        simp only [Option.some.injEq] at hp
        subst hp
        exact h.phys_lt _
      exact (key _ rfl).putWord p _ hr
  · rename_i hf
    cases s.sweepTakes with
    | none => exact h
    | some k =>
      refine State.Inv.advanceSweep ((h.writtenBack k).touch k) ?_
      simpa using hf
  · cases s.sweepTakes <;> exact h
  · have h0 : (s.setFlush 0).Inv := h.setFlush 0 (by simp)
    cases hs : s.cache.search (s.dataVariant a) with
    | some k =>
      refine (h0.fillSlot k _ _ ?_).touch k
      intro i hi
      by_cases he : s.cache.baz[i] = s.dataVariant a
      · right
        have := h.slotsDistinct i k hi (he.trans (Cache.search_some hs).symm)
        rw [← he]; exact this
      · exact .inl he
    | none =>
      cases hv : Recency.victim8 s.cache.tabst with
      | none => exact h
      | some k =>
        refine ((h0.writtenBack k).fillSlot k _ _ ?_).touch k
        intro i hi
        left
        simp only [State.writtenBack_cache, State.setFlush_cache, getElem_set_fin]
        rw [if_neg (Ne.symm hi)]
        exact Cache.search_none hs i

theorem memWrite_inv {s t : State} {a : Addr} {v : Word} (h : s.Inv) (hw : memWrite a v s = .ok () t) : t.Inv := by
  rw [memWrite_eq h] at hw
  split_ifs at hw with h0
  · cases hw; exact h
  · cases hf : s.dataFault true a with
    | some c => rw [hf] at hw; cases hw
    | none => rw [hf] at hw; cases hw; exact h.stored a v

theorem memRead_inv {s t : State} {a : Addr} {x : Word} (h : s.Inv) (hw : memRead a s = .ok x t) : t.Inv := by
  rcases memRead_ok h hw with rfl | ⟨k, rfl⟩
  · exact h
  · exact h.touch k

theorem memRead_raise_inv {s t : State} {a : Addr} {c : Cause} (h : s.Inv) (hw : memRead a s = .raise c t) : t.Inv := by
  rcases memRead_raise h hw with rfl | ⟨k, rfl⟩
  · exact h
  · exact h.touch k

/-! ### Traps and returns -/

theorem State.Inv.trapEntry {s : State} (h : s.Inv) (v : Addr) : (s.trapEntry v).Inv :=
  ((((((h.putM _ _).putM _ _).putM _ _).setModPending _).setMode _).jump _)

theorem State.Inv.takeCause {s : State} (h : s.Inv) (c : Cause) : (s.takeCause c).Inv := by
  have roll : ∀ code, (s.rollBack.stopWith code).Inv := by
    intro code
    refine State.Inv.stopWith ?_ code
    unfold State.rollBack
    refine State.Inv.setRight ?_ _
    split_ifs
    · exact h
    · exact h.registers rfl rfl rfl rfl rfl rfl
  have trap : ∀ c, (s.trap c).Inv := by
    intro c
    unfold State.trap
    simp only
    split_ifs
    · exact (h.trapEntry faultVector).registers rfl rfl rfl rfl rfl rfl
    · exact (h.trapEntry faultVector).registers rfl rfl rfl rfl rfl rfl
  unfold State.takeCause
  cases c
  case hostWatchR => exact roll _
  case hostWatchW => exact roll _
  all_goals
    simp only
    split
    · exact h.stopWith _
    · exact trap _

theorem State.Inv.enterExtracode {s : State} (h : s.Inv) (a b c : Addr) : (s.enterExtracode a b c).Inv :=
  (((((h.putM _ _).putM _ _).putM _ _).putM _ _).setMode _).jump _

theorem State.Inv.returnFrom {s : State} (h : s.Inv) (reg : BitVec 4) : (s.returnFrom reg).Inv := by
  unfold State.returnFrom
  simp only
  refine State.Inv.setMode (State.Inv.setRight ?_ _) _
  exact (h.putM 0o21 ((s.psw &&& 0o20) ||| (s.spsw &&& pswSaved))).registers rfl rfl rfl rfl rfl rfl

theorem State.Inv.endCycle {s : State} (h : s.Inv) (w : Bool) (f : Flow) : (s.endCycle w f).Inv := by
  have ha : (s.armModifier f.nextMod).Inv := by
    unfold State.armModifier
    split_ifs
    · exact h.setModPending _
    · exact (h.putM _ _).setModPending _
  unfold State.endCycle State.completeCycle
  simp only
  split_ifs
  · exact h.stopWith _
  · cases f.stopCode w with
    | none => exact ha.registers rfl rfl rfl rfl rfl rfl
    | some c => exact ha.registers rfl rfl rfl rfl rfl rfl

theorem State.Inv.beginCycle {s : State} (h : s.Inv) : s.beginCycle.Inv := by
  have h0 : ({ s with resuming := false } : State).Inv := h.registers rfl rfl rfl rfl rfl rfl
  have h1 : (State.summarise { s with resuming := false }).Inv := by
    unfold State.summarise
    split_ifs
    · exact h0
    · exact h0.registers rfl rfl rfl rfl rfl rfl
  unfold State.beginCycle State.takeInterrupt
  split_ifs
  · exact h1.trapEntry _
  · exact h1

/-! ### Page tables -/

theorem State.Inv.setProtection {s : State} (h : s.Inv) (g : BitVec 2) (v : Word) : (s.setProtection g v).Inv :=
  h.congr rfl rfl rfl rfl ⟨rfl, rfl⟩ h.ruuReserved

/-- The four frames that a page-register write puts in the expanded table, and the frames it leaves. -/
theorem State.setPageRegister_tlb (s : State) (i : Fin 8) (v : Word) (n : Nat) (hn : n < 32) :
    (s.setPageRegister i v).pages.tlb[n] =
      if n / 4 = i.val then frameField v (n % 4) &&& s.frameMask else s.pages.tlb[n] := by
  have hi := i.isLt
  simp only [State.setPageRegister, Vector.getElem_set]
  by_cases h : n / 4 = i.val
  · rw [if_pos h]
    have h4 : n % 4 = 0 ∨ n % 4 = 1 ∨ n % 4 = 2 ∨ n % 4 = 3 := by omega
    rcases h4 with h4 | h4 | h4 | h4
    · rw [if_neg (by omega), if_neg (by omega), if_neg (by omega), if_pos (by omega), h4]
    · rw [if_neg (by omega), if_neg (by omega), if_pos (by omega), h4]
    · rw [if_neg (by omega), if_pos (by omega), h4]
    · rw [if_pos (by omega), h4]
  · rw [if_neg h, if_neg (by omega), if_neg (by omega), if_neg (by omega), if_neg (by omega)]

/-- The four fields of a 48-bit register. -/
theorem extract_frames (a b c d : BitVec 12) (j : Nat) (hj : j < 4) :
    (d ++ c ++ b ++ a : BitVec 48).extractLsb' (12 * j) 12 =
      if j = 0 then a else if j = 1 then b else if j = 2 then c else d := by
  ext k hk
  simp only [← BitVec.getLsbD_eq_getElem, BitVec.getLsbD_extractLsb', BitVec.getLsbD_append, hk, decide_true, Bool.true_and]
  rcases (show j = 0 ∨ j = 1 ∨ j = 2 ∨ j = 3 by omega) with rfl | rfl | rfl | rfl
  · simp [hk]
  · have h1 : ¬ (12 * 1 + k < 12) := by omega
    have h2 : 12 * 1 + k - 12 = k := by omega
    simp [h1, h2, hk]
  · have h1 : ¬ (12 * 2 + k < 12) := by omega
    have h3 : ¬ (12 * 2 + k - 12 < 12) := by omega
    have h2 : 12 * 2 + k - 12 - 12 = k := by omega
    simp [h1, h2, h3, hk]
  · have h1 : ¬ (12 * 3 + k < 12) := by omega
    have h3 : ¬ (12 * 3 + k - 12 < 12) := by omega
    have h4 : ¬ (12 * 3 + k - 12 - 12 < 12) := by omega
    have h2 : 12 * 3 + k - 12 - 12 - 12 = k := by omega
    simp [h1, h2, h3, h4]

/-- The fields of the register that is written. -/
theorem State.setPageRegister_rp (s : State) (i n : Fin 8) (v : Word) (j : Nat) (hj : j < 4) (hn : n = i) :
    (s.setPageRegister i v).pages.rp[n].extractLsb' (12 * j) 12 = frameField v j &&& s.frameMask := by
  subst hn
  have : (s.setPageRegister n v).pages.rp[n] = (frameField v 3 &&& s.frameMask) ++ (frameField v 2 &&& s.frameMask) ++
      (frameField v 1 &&& s.frameMask) ++ (frameField v 0 &&& s.frameMask) := by
    show (s.pages.rp.set n.val _ n.isLt)[n.val] = _
    rw [Vector.getElem_set_self]
  rw [this, extract_frames _ _ _ _ j hj]
  rcases (show j = 0 ∨ j = 1 ∨ j = 2 ∨ j = 3 by omega) with rfl | rfl | rfl | rfl <;> rfl

theorem State.setPageRegister_rp_other (s : State) (i n : Fin 8) (v : Word) (hn : n ≠ i) :
    (s.setPageRegister i v).pages.rp[n] = s.pages.rp[n] := by
  show (s.pages.rp.set i.val _ i.isLt)[n.val] = _
  rw [Vector.getElem_set_ne]
  · rfl
  · exact fun h => hn (Fin.ext h.symm)

theorem State.Inv.setPageRegister {s : State} (h : s.Inv) (i : Fin 8) (v : Word) : (s.setPageRegister i v).Inv :=
  { h with
    pagesAgree := by
      intro n j
      have hn := n.isLt; have hj := j.isLt
      rw [State.setPageRegister_tlb]
      by_cases hni : n = i
      · rw [if_pos (by rw [hni]; omega), State.setPageRegister_rp _ _ _ _ _ hj hni]
        congr 2; omega
      · rw [if_neg (by have : n.val ≠ i.val := fun e => hni (Fin.ext e); omega), State.setPageRegister_rp_other _ _ _ _ hni]
        exact h.pagesAgree n j
    framesMasked := by
      intro p
      show (s.setPageRegister i v).pages.tlb[p.val] &&& s.frameMask = (s.setPageRegister i v).pages.tlb[p.val]
      rw [State.setPageRegister_tlb]
      split_ifs
      · rw [BitVec.and_assoc, BitVec.and_self]
      · exact h.framesMasked p }

end Sys2Proof.Machine
end

