-- ==== Sys2Proof/Laws/Instruction.lean ====
section
/-!
SUPPORT. From the part of a meaning that runs after the advance to the answer of the whole half-instruction: one lemma for each
way to end, the operand forms, and the operations that instructions share, read at the state before the advance.
-/
namespace Sys2Proof.Machine

theorem finish_ok (wrapped : Bool) (f : Flow) (s : State) : finish wrapped (.ok f s) = .next (s.endCycle wrapped f) := rfl

theorem finish_raise (wrapped : Bool) (c : Cause) (s : State) : finish wrapped (.raise c s) = .next (s.takeCause c) := rfl

/-- An instruction that falls through. -/
theorem runHalf_seq {s : State} (h : s.Inv) (addr : Addr) (body : Addr → State → Res Flow) (u : State)
    (hb : body (s.modified addr) (s.stepOver s.lookahead) = .ok .seq (u.stepOver s.lookahead)) (hp : u.pc = s.pc)
    (hr : u.right = s.right) : runHalf addr s body = .next (u.seqEnd s.lookahead) := by
  rw [runHalf_eq h, hb, finish_ok, State.endCycle_seq _ hp hr]

/-- An instruction that transfers control. -/
theorem runHalf_jump {s : State} (h : s.Inv) (addr : Addr) (body : Addr → State → Res Flow) (u : State) (target : Addr)
    (hb : body (s.modified addr) (s.stepOver s.lookahead) = .ok .jump ((u.stepOver s.lookahead).jump target)) :
    runHalf addr s body = .next (u.jumpEnd s.lookahead target) := by
  rw [runHalf_eq h, hb, finish_ok, State.endCycle_jump]

/-- A conditional transfer. -/
theorem runHalf_branch {s : State} (h : s.Inv) (addr : Addr) (taken : Bool) (u : State) (target : Addr)
    (hp : u.pc = s.pc) (hr : u.right = s.right) (body : Addr → State → Res Flow)
    (hb : body (s.modified addr) (s.stepOver s.lookahead) = branch taken target (u.stepOver s.lookahead)) :
    runHalf addr s body = .next (if taken then u.jumpEnd s.lookahead target else u.seqEnd s.lookahead) := by
  cases taken
  · exact runHalf_seq h _ _ u hb hp hr
  · exact runHalf_jump h _ _ u target hb

/-- An instruction that raises. -/
theorem runHalf_raise {s : State} (h : s.Inv) (addr : Addr) (body : Addr → State → Res Flow) (u : State) (c : Cause)
    (hb : body (s.modified addr) (s.stepOver s.lookahead) = .raise c (u.stepOver s.lookahead)) :
    runHalf addr s body = .next (u.faultEnd s.lookahead c) := by
  rw [runHalf_eq h, hb]; rfl

/-- What the load of an operand leaves unchanged (R172). -/
theorem operandAt_frame {reg : BitVec 4} {a : Addr} {s u : State} {x : Word} (h : s.Inv)
    (ho : operandAt reg a s = .ok x u) : u.pc = s.pc ∧ u.ruu = s.ruu := by
  unfold operandAt withOperand loadAt at ho
  split_ifs at ho
  · generalize hg : memRead _ _ = r at ho
    cases r with
    | ok y v =>
      cases ho
      rcases memRead_ok (h.putM _ _) hg with rfl | ⟨k, rfl⟩ <;> simp
    | raise w v => cases ho
    | stuck w => cases ho
  · generalize hg : memRead _ _ = r at ho
    cases r with
    | ok y v =>
      cases ho
      rcases memRead_ok h hg with rfl | ⟨k, rfl⟩ <;> simp
    | raise w v => cases ho
    | stuck w => cases ho

/-- An instruction with an operand in memory that cannot raise after the load. -/
theorem operandRule_of {i : BitVec 4 → Addr → Instr} {rest : Word → State → Res Flow} {effect : Word → State → State}
    (hi : ∀ reg addr s, exec (i reg addr) s = runOperand reg addr s rest)
    (hrest : ∀ x u c, rest x (u.stepOver c) = .ok .seq ((effect x u).stepOver c))
    (hpc : ∀ x u, (effect x u).pc = u.pc) (hruu : ∀ x u, (effect x u).ruu = u.ruu) : OperandRule i effect := by
  intro reg addr s h
  refine ⟨fun x u ho => ?_, fun c u ho => ?_⟩
  · rw [hi, runOperand, runHalf_eq h, withOperand_ok _ _ ho, hrest]
    obtain ⟨h1, h2⟩ := operandAt_frame h ho
    simp only [Res.undoing, ite_self, finish_ok]
    rw [State.endCycle_seq _ (by rw [hpc, h1]) (State.right_congr (by rw [hruu, h2]))]
  · rw [hi, runOperand, runHalf_eq h, withOperand_raise _ _ ho]
    rfl

/-! ### Shared operations -/

theorem State.sel_eq (s : State) (n : Addr) : s.sel n = if s.sup then n.toNat % 32 else n.toNat % 16 := by
  unfold State.sel; split_ifs <;> simp

/-- The class that `isLogical` tests, where the two classes above it are absent (R18). -/
theorem isLogical_eq {rau : BitVec 6} (h4 : rau.getLsbD 4 = false) (h3 : rau.getLsbD 3 = false) :
    isLogical rau = rau.getLsbD 2 := by
  unfold isLogical
  rw [Bool.eq_iff_iff, beq_iff_eq]
  constructor
  · intro h
    simpa using congrArg (·.getLsbD 0) h
  · intro h
    ext i hi
    interval_cases i
    · simpa using h
    · simpa using h3
    · simpa using h4

theorem State.right_setMode (s : State) (k : BitVec 2) : (s.setMode k).right = s.right := by
  unfold State.right State.setMode
  rw [getLsbD_setField _ _ _ (by omega) 8 (by omega)]; simp

theorem State.setMode_stepOver (s : State) (c : Prefetch) (k : BitVec 2) :
    (s.stepOver c).setMode k = (s.setMode k).stepOver c := by
  unfold State.stepOver
  rw [State.right_setMode]
  unfold State.setMode
  simp only
  congr 1
  ext i hi
  simp only [← BitVec.getLsbD_eq_getElem]
  rw [getLsbD_setField _ _ _ (by omega) i hi, getLsbD_setBit _ _ _ i hi, getLsbD_setBit _ _ _ i hi,
    getLsbD_setField _ _ _ (by omega) i hi]
  split_ifs <;> first | rfl | omega

/-- The saved status does not hold the half (R262). -/
theorem State.savedStatus_stepOver (s : State) (c : Prefetch) : (s.stepOver c).savedStatus = s.savedStatus := by
  unfold State.savedStatus
  congr 2
  ext i hi
  simp only [← BitVec.getLsbD_eq_getElem, BitVec.getLsbD_and, State.stepOver_ruu, getLsbD_setBit _ _ _ i hi]
  interval_cases i <;> simp

/-- The state an extracode enters its handler with, but for the transfer (R262). -/
theorem State.enterExtracode_stepOver (s : State) (c : Prefetch) (entry aex link : Addr) :
    (s.stepOver c).enterExtracode entry aex link =
      ((((((s.putM 0o32 link).putM 0o27 s.savedStatus).putM 0o21 0o2007).putM 0o16 aex).setMode 0b01).stepOver c).jump
        entry := by
  unfold State.enterExtracode
  rw [State.savedStatus_stepOver]
  simp only [State.putM_stepOver, State.setMode_stepOver]

end Sys2Proof.Machine
end

