-- ==== Sys2Proof/Laws/Ports.lean ====
section
/-!
SUPPORT. The ports: DMA reads what DMA has written, every action between cycles keeps the invariant, and what a run until
stopped can do.
-/
namespace Sys2Proof.Machine

/-! ### DMA -/

/-- A DMA write that answers a state: the word exists, and that word alone is written. -/
theorem State.dmaWrite_next {s t : State} {p : Nat} {w : TWord} (h : s.dmaWrite p w = .next t) :
    p < s.cfg.memWords ∧ t = s.putWord p w := by
  unfold State.dmaWrite at h
  split_ifs at h with hp
  exact ⟨hp, (Host.Outcome.next.inj h).symm⟩

/-- A DMA read after a DMA write: the word written, every other as before (R50). -/
theorem State.dmaRead_dmaWrite {s t : State} {p : Nat} {w : TWord} (hm : Memory.wf s.mem = true)
    (h : s.dmaWrite p w = .next t) (q : Nat) : t.dmaRead q = if q = p then .next w else s.dmaRead q := by
  obtain ⟨hp, rfl⟩ := State.dmaWrite_next h
  unfold State.dmaRead
  rw [State.putWord_cfg, State.putWord_mem]
  by_cases hq : q = p
  · rw [if_pos hq, hq, if_pos hp, Memory.read_write_same _ _ _ hm]
  · rw [if_neg hq, Memory.read_write_other _ _ _ _ hq hm]

/-! ### The invariant between cycles -/

theorem State.Inv.resume {s : State} (h : s.Inv) : s.resume.Inv := by
  unfold State.resume
  split_ifs
  · exact h
  · exact h.registers rfl rfl rfl rfl rfl rfl

/-- An action keeps the invariant. -/
theorem State.Inv.act {s t : State} (h : s.Inv) {a : PortAction} (ha : s.act a = .next t) : t.Inv := by
  cases a with
  | dmaWrite p w =>
    obtain ⟨hp, rfl⟩ := State.dmaWrite_next ha
    exact h.putWord p w hp
  | _ => cases ha; exact h.registers rfl rfl rfl rfl rfl rfl

/-! ### Running until stopped -/

/-- What every action keeps, all the actions between two cycles keep. -/
theorem actAll_keeps {P : State → Prop} (hact : ∀ s t a, P s → s.act a = .next t → P t) (l : List PortAction) :
    ∀ s t, P s → actAll l s = .next t → P t := by
  induction l with
  | nil => intro s t hs ht; cases ht; exact hs
  | cons a rest ih =>
    intro s t hs ht
    rw [actAll] at ht
    split at ht
    · exact ih _ _ (hact _ _ _ hs ‹_›) ht
    · rename_i hn; exact absurd ht (hn t)

/-- What a run of at least one cycle can do: the first cycle stops the run, or it does not, the scheduler acts, and the rest
of the schedule follows (R150). -/
theorem runCycles_cons {actions : List PortAction} {rest : List (List PortAction)} {s u : State}
    (h : runCycles (actions :: rest) s = .next u) :
    ∃ t, step s = .next t ∧
      ((t.stopped ≠ none ∧ u = t) ∨
        (t.stopped = none ∧ ∃ v, actAll actions t = .next v ∧ runCycles rest v = .next u)) := by
  rw [runCycles] at h
  split at h
  · rename_i t ht
    refine ⟨t, ht, ?_⟩
    split_ifs at h with hs
    · exact .inl ⟨Option.isSome_iff_ne_none.1 hs, (Host.Outcome.next.inj h).symm⟩
    · refine .inr ⟨by simpa using hs, ?_⟩
      split at h
      · rename_i v hv; exact ⟨v, hv, h⟩
      · rename_i hn; exact absurd h (hn u)
  · rename_i hn; exact absurd h (hn u)

/-- What every step and every action between cycles keeps, a run until stopped keeps. -/
theorem runUntilStopped_keeps {P : State → Prop} (hresume : ∀ s, P s → P s.resume)
    (hstep : ∀ s t, P s → step s = .next t → P t) (hact : ∀ s t a, P s → s.act a = .next t → P t)
    {schedule : List (List PortAction)} {s u : State} (hs : P s) (h : runUntilStopped schedule s = .next u) : P u := by
  unfold runUntilStopped at h
  have hs' := hresume s hs
  generalize s.resume = r at h hs'
  induction schedule generalizing r with
  | nil => cases h; exact hs'
  | cons actions rest ih =>
    obtain ⟨t, ht, ⟨_, rfl⟩ | ⟨_, v, hv, hu⟩⟩ := runCycles_cons h
    · exact hstep _ _ hs' ht
    · exact ih v hu (actAll_keeps hact _ _ _ (hstep _ _ hs' ht) hv)

end Sys2Proof.Machine
end

