-- ==== Sys2Proof/Tests/Slice0.lean ====
section
/-!
SUPPORT. Tests of the model against the words and the vectors of spec/95_test_vectors.md, and for each statement with
hypotheses a witness: concrete states and operands that meet them.
-/
namespace Sys2Proof.Machine.Tests
open Sys2Proof

/-! ### The base states of 95_test_vectors.md 2.0 -/

/-- S0: supervisor mode, unmapped. -/
def S0 : State := { (State.reset.putM 0o17 0o2000).putM 0o27 0 with ruu := 0o47 }

/-- S1: user mode, mapped; virtual page 0 is physical frame 2. -/
def S1 : State :=
  { S0.putM 0o21 0 with
    ruu := 0o43
    pages := { S0.pages with tlb := S0.pages.tlb.set 0 2, rp := S0.pages.rp.set 0 2 } }

/-- The next state of an answer, if it has one. -/
def next? : Answer → Option State
  | .next t => some t
  | _ => none

/-- What `f` reads in the state after one cycle that executes the half-instruction `half` at `s`. -/
def after {α : Type} (half : Nat) (s : State) (f : State → α) : Option α := (next? (step (s.withFetchWord 24 half))).map f

/-! ### WellFormed and the decoder -/

/-- A short address between the two ranges its field reaches is refused (R104). -/
theorem test_wellFormed_refuses_gap :
    (Instr.xta 3 0o10000).wellFormed = false ∧ (Instr.ex77 0 0o67777).wellFormed = false := by decide

/-- The ends of both ranges, and of the long address, are well formed. -/
theorem test_witness_EncodingFollowsTheFormats :
    (Instr.xta 3 0).wellFormed ∧ (Instr.xta 3 0o7777).wellFormed ∧ (Instr.xta 3 0o70000).wellFormed ∧
    (Instr.xta 3 0o77777).wellFormed ∧ (Instr.vlm 15 0o77777).wellFormed := by decide

theorem test_decodeTableWord_refuses_wide : decodeTableWord 48 0o00101100 = none := by decide

theorem test_withFetchWord :
    decodeTableWord 24 0o00101100 = some (.xta 0 0o1100) ∧
    (State.reset.withFetchWord 24 0o00101100).codeAt (State.reset.fetchVariant State.reset.pc) =
      ⟨1, joinHalves 0o00101100 0⟩ := by decide

theorem test_decode_memory_and_arithmetic :
    decode 0o15004321 = .atx 3 0o74321 ∧ decode 0o50011235 = .stx 10 0o1235 ∧ decode 0o05024323 = .mod 1 0o74323 ∧
    decode 0o40031237 = .xts 8 0o1237 ∧ decode 0o75044325 = .aPlusX 15 0o74325 ∧
    decode 0o30051241 = .aMinusX 6 0o1241 ∧ decode 0o65064327 = .xMinusA 13 0o74327 ∧
    decode 0o20071243 = .amx 4 0o1243 ∧ decode 0o55104331 = .xta 11 0o74331 ∧ decode 0o10111245 = .aax 2 0o1245 ∧
    decode 0o45124333 = .aex 9 0o74333 ∧ decode 0o00131247 = .arx 0 0o1247 ∧ decode 0o35144335 = .avx 7 0o74335 ∧
    decode 0o70151251 = .aox 14 0o1251 ∧ decode 0o25164337 = .aDivX 5 0o74337 ∧ decode 0o60171253 = .aMulX 12 0o1253 := by
  decide

theorem test_decode_logical_shift_and_modes :
    decode 0o15204341 = .apx 3 0o74341 ∧ decode 0o50211255 = .aux 10 0o1255 ∧ decode 0o05224343 = .acx 1 0o74343 ∧
    decode 0o40231257 = .anx 8 0o1257 ∧ decode 0o75244345 = .ePlusX 15 0o74345 ∧
    decode 0o30251261 = .eMinusX 6 0o1261 ∧ decode 0o65264347 = .asx 13 0o74347 ∧ decode 0o20271263 = .xtr 4 0o1263 ∧
    decode 0o55304351 = .rte 11 0o74351 ∧ decode 0o10311265 = .yta 2 0o1265 ∧ decode 0o45324353 = .op32 9 0o74353 ∧
    decode 0o00331267 = .ext 0 0o1267 ∧ decode 0o35344355 = .ePlusN 7 0o74355 ∧
    decode 0o70351271 = .eMinusN 14 0o1271 ∧ decode 0o25364357 = .asn 5 0o74357 ∧ decode 0o60371273 = .ntr 12 0o1273 := by
  decide

theorem test_decode_index_and_modifier :
    decode 0o15404361 = .ati 3 0o74361 ∧ decode 0o50411275 = .sti 10 0o1275 ∧ decode 0o05424363 = .ita 1 0o74363 ∧
    decode 0o40431277 = .its 8 0o1277 ∧ decode 0o75444365 = .mtj 15 0o74365 ∧ decode 0o30451301 = .jPlusM 6 0o1301 ∧
    decode 0o65464367 = .op46 13 0o74367 ∧ decode 0o20471303 = .op47 4 0o1303 ∧ decode 0o16252545 = .utc 3 0o52545 ∧
    decode 0o56352555 = .wtc 11 0o52555 ∧ decode 0o16452565 = .vtm 3 0o52565 ∧ decode 0o56552575 = .utm 11 0o52575 := by
  decide

theorem test_decode_branches_and_supervisor :
    decode 0o16652605 = .uza 3 0o52605 ∧ decode 0o56752615 = .u1a 11 0o52615 ∧ decode 0o17052525 = .uj 3 0o52525 ∧
    decode 0o57152535 = .vjm 11 0o52535 ∧ decode 0o17252545 = .ij 3 0o52545 ∧ decode 0o57352555 = .stop 11 0o52555 ∧
    decode 0o17452565 = .vzm 3 0o52565 ∧ decode 0o57552575 = .v1m 11 0o52575 ∧ decode 0o17652605 = .op36 3 0o52605 ∧
    decode 0o57752615 = .vlm 11 0o52615 := by
  decide

theorem test_decode_extracodes_50_to_63 :
    decode 0o55504371 = .ex50 11 0o74371 ∧ decode 0o10511305 = .ex51 2 0o1305 ∧ decode 0o45524373 = .ex52 9 0o74373 ∧
    decode 0o00531307 = .ex53 0 0o1307 ∧ decode 0o35544375 = .ex54 7 0o74375 ∧ decode 0o70551311 = .ex55 14 0o1311 ∧
    decode 0o25564377 = .ex56 5 0o74377 ∧ decode 0o60571313 = .ex57 12 0o1313 ∧ decode 0o15604401 = .ex60 3 0o74401 ∧
    decode 0o50611315 = .ex61 10 0o1315 ∧ decode 0o05624403 = .ex62 1 0o74403 ∧ decode 0o40631317 = .ex63 8 0o1317 := by
  decide

theorem test_decode_extracodes_64_to_21 :
    decode 0o75644405 = .ex64 15 0o74405 ∧ decode 0o30651321 = .ex65 6 0o1321 ∧
    decode 0o65664407 = .ex66 13 0o74407 ∧ decode 0o20671323 = .ex67 4 0o1323 ∧
    decode 0o55704411 = .ex70 11 0o74411 ∧ decode 0o10711325 = .ex71 2 0o1325 ∧ decode 0o45724413 = .ex72 9 0o74413 ∧
    decode 0o00731327 = .ex73 0 0o1327 ∧ decode 0o35744415 = .ex74 7 0o74415 ∧ decode 0o70751331 = .ex75 14 0o1331 ∧
    decode 0o25764417 = .ex76 5 0o74417 ∧ decode 0o60771333 = .ex77 12 0o1333 ∧ decode 0o16052525 = .ex20 3 0o52525 ∧
    decode 0o56152535 = .ex21 11 0o52535 := by
  decide

/-! ### One cycle: vectors of 95_test_vectors.md 2.3 to 2.7 -/

/-- V-I1. -/
theorem test_atx :
    after 0o00003000 { S0 with acc := 0o1234567012345670 }
      (fun t => (t.ruu, t.cache.baz[0], t.cache.brz[0], t.cache.tabst)) =
      some (0o447, 0o103000, ⟨2, 0o1234567012345670⟩, 0o177) := by decide

/-- V-I3. -/
theorem test_atx_2 :
    after 0o74000000 { S0 with acc := 7 }
      (fun t => (t.ruu, t.getM 0o17, t.cache.baz[0], t.cache.brz[0], t.cache.tabst)) =
      some (0o447, 0o2001, 0o102000, ⟨2, 7⟩, 0o177) := by decide

/-- V-I5. -/
theorem test_stx :
    after 0o00013000 ((({ S0 with acc := 0o11 }).putM 0o17 0o2001).putWord 0o2000 ⟨2, 0o55⟩)
      (fun t => (t.acc, t.rau, t.ruu, t.getM 0o17, t.cache.baz[0], t.cache.brz[0])) =
      some (0o55, 4, 0o447, 0o2000, 0o103000, ⟨2, 0o11⟩) := by decide

/-- V-I6. -/
theorem test_xts :
    after 0o00033000 (({ S0 with acc := 0o11 }).putWord 0o3000 ⟨2, 0o66⟩)
      (fun t => (t.acc, t.rau, t.ruu, t.getM 0o17, t.cache.baz[0], t.cache.brz[0])) =
      some (0o66, 4, 0o447, 0o2001, 0o102000, ⟨2, 0o11⟩) := by decide

/-- V-I7. -/
theorem test_xta :
    after 0o00103000 (({ S0 with rau := 0o23 }).putWord 0o3000 ⟨2, 0o66⟩) (fun t => (t.acc, t.rau, t.ruu)) =
      some (0o66, 7, 0o447) := by decide

/-- V-I8. -/
theorem test_xta_2 :
    after 0o74100000 ((S0.putM 0o17 0o2001).putWord 0o2000 ⟨2, 0o55⟩) (fun t => (t.acc, t.rau, t.ruu, t.getM 0o17)) =
      some (0o55, 4, 0o447, 0o2000) := by decide

/-- V-I11. -/
theorem test_aPlusX :
    after 0o00043000 (({ S0 with acc := 0o4050000000000000 }).putWord 0o3000 ⟨2, 0o4114000000000000⟩)
      (fun t => (t.acc, t.rau, t.ruu)) =
      some (0o4150000000000000, 0o20, 0o447) := by decide

/-- V-I12. -/
theorem test_aMinusX :
    after 0o00053000 (({ S0 with acc := 0o4050000000000000 }).putWord 0o3000 ⟨2, 0o4110000000000000⟩)
      (fun t => (t.acc, t.rau, t.ruu)) =
      some (0o4020000000000000, 0o20, 0o447) := by decide

/-- V-I13. -/
theorem test_xMinusA :
    after 0o00063000 (({ S0 with acc := 0o4050000000000000 }).putWord 0o3000 ⟨2, 0o4110000000000000⟩)
      (fun t => (t.rau, t.ruu)) =
      some (0o20, 0o447) := by decide

/-- V-I14. -/
theorem test_amx :
    after 0o00073000 (({ S0 with acc := 0o4124000000000000 }).putWord 0o3000 ⟨2, 0o4110000000000000⟩)
      (fun t => (t.acc, t.rau, t.ruu)) =
      some (0o4050000000000000, 0o20, 0o447) := by decide

/-- V-I16. -/
theorem test_aax :
    after 0o00113000 (({ S0 with acc := 0o7070707070707070, rmr := 1 }).putWord 0o3000 ⟨2, 0o777777770000⟩)
      (fun t => (t.acc, t.rmr, t.rau, t.ruu)) =
      some (0o707070700000, 0, 4, 0o447) := by decide

/-- V-I17. -/
theorem test_aex :
    after 0o00123000 (({ S0 with acc := 0o7070707070707070 }).putWord 0o3000 ⟨2, 0o777777770000⟩)
      (fun t => (t.acc, t.rmr, t.rau, t.ruu)) =
      some (0o7070070707077070, 0o7070707070707070, 4, 0o447) := by decide

/-- V-I18. -/
theorem test_arx :
    after 0o00133000 (({ S0 with acc := 0o7777777777777777, rmr := 1 }).putWord 0o3000 ⟨2, 2⟩)
      (fun t => (t.acc, t.rmr, t.rau, t.ruu)) =
      some (2, 0, 0o10, 0o447) := by decide

/-- V-I19. -/
theorem test_avx :
    after 0o00143000 (({ S0 with acc := 0o4114000000000000 }).putWord 0o3000 ⟨2, 0o4020000000000000⟩)
      (fun t => (t.acc, t.rau, t.ruu)) =
      some (0o4124000000000000, 0o20, 0o447) := by decide

/-- V-I21. -/
theorem test_aox :
    after 0o00153000 (({ S0 with acc := 0o7070707070707070, rmr := 1 }).putWord 0o3000 ⟨2, 0o777777770000⟩)
      (fun t => (t.acc, t.rmr, t.rau, t.ruu)) =
      some (0o7070777777777070, 0, 4, 0o447) := by decide

/-- V-I22. -/
theorem test_aDivX :
    after 0o00163000 (({ S0 with acc := 0o4114000000000000 }).putWord 0o3000 ⟨2, 0o4110000000000000⟩)
      (fun t => (t.acc, t.rau, t.ruu)) =
      some (0o4054000000000000, 0o10, 0o447) := by decide

/-- V-I23. -/
theorem test_aMulX :
    after 0o00173000 (({ S0 with acc := 0o4114000000000000 }).putWord 0o3000 ⟨2, 0o4010000000000000⟩)
      (fun t => (t.acc, t.rau, t.ruu)) =
      some (0o4054000000000000, 0o10, 0o447) := by decide

/-- V-I30. -/
theorem test_apx :
    after 0o00203000 (({ S0 with acc := 0o1234567076543210, rmr := 1 }).putWord 0o3000 ⟨2, 0o777700007777⟩)
      (fun t => (t.acc, t.rmr, t.rau, t.ruu)) =
      some (0o5670321000000000, 0, 4, 0o447) := by decide

/-- V-I31. -/
theorem test_aux :
    after 0o00213000 (({ S0 with acc := 0o5670321000000000, rmr := 1 }).putWord 0o3000 ⟨2, 0o777700007777⟩)
      (fun t => (t.acc, t.rmr, t.rau, t.ruu)) =
      some (0o567000003210, 0, 4, 0o447) := by decide

/-- V-I32. -/
theorem test_acx :
    after 0o00223000 (({ S0 with acc := 0o1234567076543210, rmr := 1 }).putWord 0o3000 ⟨2, 0o100⟩)
      (fun t => (t.acc, t.rau, t.ruu)) =
      some (0o130, 4, 0o447) := by decide

/-- V-I33. -/
theorem test_anx :
    after 0o00233000 (({ S0 with acc := 0o100000000005, rmr := 1 }).putWord 0o3000 ⟨2, 0o1000⟩)
      (fun t => (t.acc, t.rmr, t.rau, t.ruu)) =
      some (0o1017, 0o500000, 4, 0o447) := by decide

/-- V-I35. -/
theorem test_ePlusX :
    after 0o00243000 (({ S0 with acc := 0o4054000000000000, rmr := 1 }).putWord 0o3000 ⟨2, 0o4140000000000000⟩)
      (fun t => (t.acc, t.rmr, t.rau, t.ruu)) =
      some (0o4214000000000000, 0, 0o10, 0o447) := by decide

/-- V-I36. -/
theorem test_eMinusX :
    after 0o00253000 (({ S0 with acc := 0o4054000000000000, rmr := 1 }).putWord 0o3000 ⟨2, 0o4140000000000000⟩)
      (fun t => (t.acc, t.rmr, t.rau, t.ruu)) =
      some (0o3714000000000000, 0, 0o10, 0o447) := by decide

/-- V-I37. -/
theorem test_asx :
    after 0o00263000 (({ S0 with acc := 0o1234567076543210 }).putWord 0o3000 ⟨2, 0o4140000000000000⟩)
      (fun t => (t.acc, t.rau, t.ruu)) =
      some (0o123456707654321, 4, 0o447) := by decide

/-- V-I39. -/
theorem test_xtr :
    after 0o00273000 (({ S0 with rau := 4 }).putWord 0o3000 ⟨2, 0o5140000000000000⟩) (fun t => (t.rau, t.ruu)) =
      some (0o23, 0o447) := by decide

/-- V-I40. -/
theorem test_rte :
    after 0o00300077 { S0 with rau := 0o23 } (fun t => (t.acc, t.rau, t.ruu)) =
      some (0o1140000000000000, 7, 0o447) := by decide

/-- V-I42. -/
theorem test_yta :
    after 0o00310000 { S0 with rau := 4, acc := 5, rmr := 0o7777 } (fun t => (t.acc, t.ruu)) =
      some (0o7777, 0o447) := by decide

/-- V-I43. -/
theorem test_yta_2 :
    after 0o00310103 { S0 with rau := 0o10, acc := 0o4300000000000000, rmr := 0o4000000000 }
      (fun t => (t.acc, t.ruu)) =
      some (0o3750000000000000, 0o447) := by decide

/-- V-I44. -/
theorem test_ePlusN :
    after 0o00340103 { S0 with acc := 0o4054000000000000, rmr := 1 } (fun t => (t.acc, t.rmr, t.rau, t.ruu)) =
      some (0o4214000000000000, 0, 0o10, 0o447) := by decide

/-- V-I45. -/
theorem test_eMinusN :
    after 0o00350103 { S0 with acc := 0o4054000000000000, rmr := 1 } (fun t => (t.acc, t.rmr, t.rau, t.ruu)) =
      some (0o3714000000000000, 0, 0o10, 0o447) := by decide

/-- V-I46. -/
theorem test_asn :
    after 0o00360110 { S0 with acc := 0o1234567076543210 } (fun t => (t.acc, t.rmr, t.rau, t.ruu)) =
      some (0o2471356175306, 0o4200000000000000, 4, 0o447) := by decide

/-- V-I49. -/
theorem test_ntr :
    after 0o00370003 { S0 with rau := 0o20 } (fun t => (t.rau, t.ruu)) =
      some (3, 0o447) := by decide

/-- V-I50. -/
theorem test_ati :
    after 0o00400003 { S0 with acc := 0o1234500012 } (fun t => (t.ruu, t.getM 3)) =
      some (0o447, 0o12) := by decide

/-- V-I55. -/
theorem test_sti :
    after 0o00410003 ((({ S0 with acc := 0o77 }).putM 0o17 0o2001).putWord 0o2000 ⟨2, 5⟩)
      (fun t => (t.acc, t.rau, t.ruu, t.getM 3, t.getM 0o17)) =
      some (5, 4, 0o447, 0o77, 0o2000) := by decide

/-- V-I56. -/
theorem test_sti_2 :
    after 0o00410017 ((({ S0 with acc := 0o3000 }).putM 0o17 0o2001).putWord 0o3000 ⟨2, 6⟩)
      (fun t => (t.acc, t.rau, t.ruu, t.getM 0o17)) =
      some (6, 4, 0o447, 0o3000) := by decide

/-- V-I57. -/
theorem test_ita :
    after 0o00420021 S0 (fun t => (t.acc, t.rau, t.ruu)) =
      some (0o2017, 4, 0o447) := by decide

/-- V-I59. -/
theorem test_its :
    after 0o00430005 (({ S0 with acc := 0o11 }).putM 5 0o44)
      (fun t => (t.acc, t.rau, t.ruu, t.getM 0o17, t.cache.baz[0], t.cache.brz[0])) =
      some (0o44, 4, 0o447, 0o2001, 0o102000, ⟨2, 0o11⟩) := by decide

/-- V-I60. -/
theorem test_mtj :
    after 0o10440005 (S0.putM 2 0o300) (fun t => (t.ruu, t.getM 5)) =
      some (0o447, 0o300) := by decide

/-- V-I63. -/
theorem test_jPlusM :
    after 0o10450005 ((S0.putM 2 0o300).putM 5 0o77700) (fun t => (t.ruu, t.getM 5)) =
      some (0o447, 0o200) := by decide

/-- V-I64. -/
theorem test_jPlusM_2 :
    after 0o10450025 ((S0.putM 2 0o300).putM 5 0o77700) (fun t => (t.ruu, t.getM 0o25)) =
      some (0o447, 0o300) := by decide

/-- V-I66. -/
theorem test_op46 :
    after 0o00461003 S0 (fun t => (t.ruu, t.getM 3)) =
      some (0o447, 0o1003) := by decide

/-- V-I67. -/
theorem test_op47 :
    after 0o01477777 S0 (fun t => (t.ruu, t.getM 0o17)) =
      some (0o447, 0o1777) := by decide

/-- V-I68. -/
theorem test_op46_2 :
    after 0o00461003 S1 (fun t => (t.ruu, t.pc, t.psw, t.spsw, t.getM 0o33, t.grp)) =
      some (0o53, 0o500, 0o2003, 0o400, 0o1000, 0o10000) := by decide

/-- V-I70. -/
theorem test_utc :
    after 0o02212345 S0 (fun t => (t.ruu, t.getM 0o20)) =
      some (0o467, 0o12345) := by decide

/-- V-I73. -/
theorem test_wtc :
    after 0o02303000 (S0.putWord 0o3000 ⟨2, 0o300005⟩) (fun t => (t.ruu, t.getM 0o20)) =
      some (0o467, 5) := by decide

/-- V-I74. -/
theorem test_vtm :
    after 0o12401234 S0 (fun t => (t.ruu, t.getM 2)) =
      some (0o447, 0o1234) := by decide

/-- V-I75. -/
theorem test_vtm_2 :
    after 0o02400000 S0 (fun t => (t.ruu, t.psw)) =
      some (0o447, 0o14) := by decide

/-- V-I77. -/
theorem test_utm :
    after 0o12577777 (S0.putM 2 0o10) (fun t => (t.ruu, t.getM 2)) =
      some (0o447, 7) := by decide

/-- V-I80. -/
theorem test_uza :
    after 0o02601100 { S0 with rau := 4, acc := 0 } (fun t => (t.pc)) =
      some (0o1100) := by decide

/-- V-I82. -/
theorem test_u1a :
    after 0o02701100 { S0 with rau := 0o20, acc := 0o4020000000000000 } (fun t => (t.rmr, t.pc)) =
      some (0o4020000000000000, 0o1100) := by decide

/-- V-I86. -/
theorem test_uj :
    after 0o03001100 S0 (fun t => (t.pc)) =
      some (0o1100) := by decide

/-- V-I88. -/
theorem test_vjm :
    after 0o37103000 S0 (fun t => (t.pc, t.getM 7)) =
      some (0o3000, 0o1001) := by decide

/-- V-I90. -/
theorem test_vzm :
    after 0o13401100 (S0.putM 2 0) (fun t => (t.pc)) =
      some (0o1100) := by decide

/-- V-I92. -/
theorem test_v1m :
    after 0o13501100 (S0.putM 2 1) (fun t => (t.pc)) =
      some (0o1100) := by decide

/-- V-I93. -/
theorem test_op36 :
    after 0o13601100 (S0.putM 2 0) (fun t => (t.pc)) =
      some (0o1100) := by decide

/-- V-I94. -/
theorem test_vlm :
    after 0o13701100 (S0.putM 2 0o77777) (fun t => (t.pc, t.getM 2)) =
      some (0o1100, 0) := by decide

/-- V-I95. -/
theorem test_vlm_2 :
    after 0o13701100 (S0.putM 2 0) (fun t => (t.ruu)) =
      some (0o447) := by decide

/-- V-I96. -/
theorem test_ex50 :
    after 0o00500010 S1 (fun t => (t.ruu, t.pc, t.getM 0o16, t.psw, t.getM 0o32)) =
      some (0o47, 0o550, 0o10, 0o2007, 0o1001) := by decide

/-- V-I97. -/
theorem test_ex77 :
    after 0o14770005 (S0.putM 3 0o100) (fun t => (t.pc, t.getM 0o16, t.psw, t.spsw, t.getM 0o32)) =
      some (0o577, 0o105, 0o2007, 0o2007, 0o1001) := by decide

/-- V-I98. -/
theorem test_ex20 :
    after 0o02001234 S1 (fun t => (t.ruu, t.pc, t.getM 0o16, t.psw, t.getM 0o32)) =
      some (0o47, 0o560, 0o1234, 0o2007, 0o1001) := by decide

/-- V-I99. -/
theorem test_ex21 :
    after 0o02101234 (S1.setRight true) (fun t => (t.ruu, t.pc, t.getM 0o16, t.psw, t.getM 0o32)) =
      some (0o47, 0o561, 0o1234, 0o2007, 0o1001) := by decide

/-- V-I102. -/
theorem test_mod :
    after 0o00020020 { S0 with acc := 0o102001010101 }
      (fun t => (t.ruu, t.pages.rp[0], t.pages.tlb[0], t.pages.tlb[1], t.pages.tlb[2], t.pages.tlb[3])) =
      some (0o447, 0o10000401020041, 0o41, 0o102, 4, 0o10) := by decide

/-- V-I111. -/
theorem test_mod_2 :
    after 0o00020237 { S0 with grp := 0o400000010000 } (fun t => (t.acc, t.rau, t.ruu)) =
      some (0o400000010000, 4, 0o447) := by decide

/-- V-I115. -/
theorem test_op32 :
    after 0o00320000 (S0.putM 0o21 0o2003) (fun t => (t.ruu, t.pc, t.spsw, t.getM 0o33, t.grp, t.inDispatch)) =
      some (0o53, 0o500, 0o2407, 0o1000, 0o10000, true) := by decide

/-- V-I109 and S2: the stop leaves a pending modifier and the dispatch window as they are. -/
theorem test_mod_unimplemented :
    after 0o00020140 { S0 with ruu := 0o67, inDispatch := true } (fun t => (t.ruu, t.stopped, t.inDispatch, t.grp)) =
      some (0o467, some .unimplemented, true, 0) := by decide

/-- V-I116. -/
theorem test_ext :
    after 0o00330030 { S0 with acc := 0o70, prp := 0o77777777, cfg := { Config.Params.suggested with prpWired := 0o70000000 } }
      (fun t => (t.ruu, t.prp)) =
      some (0o447, 0o70000070) := by decide

/-- V-I118. -/
theorem test_ext_2 :
    after 0o00334030 { S0 with prp := 0o12345670 } (fun t => (t.acc, t.rau, t.ruu)) =
      some (0o12340000, 4, 0o447) := by decide

/-- V-I123. -/
theorem test_ij :
    after 0o17200000 ((((S0.putM 0o27 0o2420).putM 0o33 0o3000).putM 0o20 0o44).putM 0o21 0o2037)
      (fun t => (t.ruu, t.pc, t.psw)) =
      some (0o463, 0o3000, 0o2020) := by decide

/-- V-I124. -/
theorem test_ij_2 :
    after 0o13200000 ((S0.putM 0o27 0).putM 0o32 0o3001) (fun t => (t.ruu, t.pc, t.psw)) =
      some (0o43, 0o3001, 0) := by decide

/-- V-I127. -/
theorem test_stop :
    after 0o03300000 S0 (fun t => (t.ruu, t.stopped)) =
      some (0o447, some .halt) := by decide

/-- V-I128. -/
theorem test_stop_2 :
    after 0o03300012 S1 (fun t => (t.ruu, t.pc, t.getM 0o16, t.psw, t.getM 0o32)) =
      some (0o47, 0o563, 0o12, 0o2007, 0o1001) := by decide

/-! ### Faults, interrupts and stops: vectors of 95_test_vectors.md 2.10, 2.11 and rules -/

/-- V-F3: user mode, page absent: the fetch traps with nothing advanced. -/
theorem test_fetch_page_absent :
    (next? (step { S1 with pages := { S1.pages with tlb := S1.pages.tlb.set 0 0 } })).map
      (fun t => (t.pc, t.getM 0o33, t.spsw, t.grp, t.inDispatch)) = some (0o500, 0o1000, 0, 0o20000, true) := by decide

/-- R303, R306: an unmasked cause enters at 0o501; the fetch there then traps, both within one cycle. -/
theorem test_interrupt_entry :
    let t := State.beginCycle { S1 with grp := 0o40000000, mgrp := 0o40000000 }
    (t.pc, t.getM 0o33, t.psw, t.ruu, t.inDispatch) = (0o501, 0o1000, 0o2003, 0o53, false) := by decide

/-- R320: a trap inside the dispatch window stops the run. -/
theorem test_double_trap :
    (next? (step { S1 with pc := 0, inDispatch := true })).map (fun t => (t.stopped, t.pc)) =
      some (some .doubleTrap, 0o500) := by decide

/-- R150, R330: a run stops at `stop`, and does not where the schedule ends before. -/
theorem test_run_until_stopped :
    let s := S0.withFetchWord 24 0o03300000
    (next? (runUntilStopped [[], []] s)).map (fun t => (t.stopped, t.ruu)) = some (some .halt, 0o447) ∧
    (next? (runUntilStopped [] s)).map (·.stopped) = some none := by decide

/-- V-A5, V-A10, V-A15: sticky rounding, a far negative operand, overflow. -/
theorem test_add_corners :
    Alu.add 0 0o4050000000000000 0 0o1410000000000000 false false = ⟨0o4050000000000001, 0o4000000000000, false⟩ ∧
    Alu.add 0 0o6210000000000000 0 0o0530000000000000 false false = ⟨0o6157777777777777, 0o17777777777776, false⟩ ∧
    Alu.add 0 0o7750000000000000 0 0o7750000000000000 false false = ⟨0o0010000000000000, 0, true⟩ := by decide

/-- V-A31, V-A33: a truncated quotient and a negative one. -/
theorem test_divide_corners :
    Alu.divide 0 0o4050000000000000 0 0o4114000000000000 = ⟨0o3752525252525253, 0, false⟩ ∧
    Alu.divide 0 0o4124000000000000 0 0o4054000000000000 = ⟨0o4060000000000000, 0, false⟩ := by decide

/-! ### The base states meet the invariant -/

theorem test_S0_inv : S0.Inv where
  params := by decide
  memWf := by decide
  memRange := by decide
  cacheOrder := Recency.isOrder_zero _ _ _
  prefetchOrder := Recency.isOrder_zero _ _ _
  slotsDistinct := by decide
  sweepCount := by decide
  pagesAgree := by decide
  framesMasked := by decide
  ruuReserved := by decide

theorem test_S1_inv : S1.Inv where
  params := by decide
  memWf := by decide
  memRange := by decide
  cacheOrder := Recency.isOrder_zero _ _ _
  prefetchOrder := Recency.isOrder_zero _ _ _
  slotsDistinct := by decide
  sweepCount := by decide
  pagesAgree := by decide
  framesMasked := by decide
  ruuReserved := by decide

/-- S0 in bypass mode. -/
def S0bypass : State := { S0 with cfg := { S0.cfg with cacheEnable := false } }

theorem test_S0bypass_inv : S0bypass.Inv :=
  { params := by decide, memWf := test_S0_inv.memWf, memRange := test_S0_inv.memRange
    cacheOrder := test_S0_inv.cacheOrder, prefetchOrder := test_S0_inv.prefetchOrder
    slotsDistinct := test_S0_inv.slotsDistinct, sweepCount := test_S0_inv.sweepCount
    pagesAgree := test_S0_inv.pagesAgree, framesMasked := test_S0_inv.framesMasked
    ruuReserved := test_S0_inv.ruuReserved }

/-- S0, S1 and S0 in bypass mode with the word `w` at the physical address of 0o3000, and of 0o1000 in S1. -/
def S0mem (w : TWord) : State := S0.putWord 0o3000 w

def S1mem (w : TWord) : State := S1.putWord 0o5000 w

theorem test_S0mem_inv (w : TWord) : (S0mem w).Inv := test_S0_inv.putWord _ _ (by decide)

theorem test_S1mem_inv (w : TWord) : (S1mem w).Inv := test_S1_inv.putWord _ _ (by decide)

/-- S0 with a cached word at the unmapped address 0o3000. -/
def S0hit (w : TWord) : State := S0.fillSlot 3 0o103000 w

theorem test_S0hit_inv (w : TWord) : (S0hit w).Inv := test_S0_inv.fillSlot _ _ _ (by decide)

/-- S0 with an instruction word at PC, and S1 with the same. -/
def code : Word := joinHalves 0o00103000 0o00003000

def S0code : State := S0.putWord 0o1000 ⟨1, code⟩

theorem test_S0code_inv : S0code.Inv := test_S0_inv.putWord _ _ (by decide)

theorem test_S1code_inv : (S1mem ⟨1, code⟩).Inv := test_S1mem_inv _

/-! ### How a part of a cycle ended, as a Bool -/

def loads (r : Res Word) (v : Word) : Bool := match r with | .ok x _ => x == v | _ => false

def completes {α : Type} (r : Res α) : Bool := match r with | .ok _ _ => true | _ => false

def raises {α : Type} (r : Res α) (c : Cause) : Bool := match r with | .raise x _ => x == c | _ => false

theorem ok_of_loads {r : Res Word} {v : Word} (h : loads r v = true) : ∃ u, r = .ok v u := by
  cases r with
  | ok x u => exact ⟨u, congrArg (Res.ok · u) (beq_iff_eq.mp h)⟩
  | raise c u => cases h
  | stuck x => cases h

theorem raise_of_raises {α : Type} {r : Res α} {c : Cause} (h : raises r c = true) : ∃ u, r = .raise c u := by
  cases r with
  | ok x u => cases h
  | raise x u => exact ⟨u, congrArg (Res.raise · u) (beq_iff_eq.mp h)⟩
  | stuck x => cases h

theorem ok_of_completes {r : Res Unit} (h : completes r = true) : ∃ u, r = .ok () u := by
  cases r with
  | ok x u => exact ⟨u, rfl⟩
  | raise x u => cases h
  | stuck x => cases h

theorem next_of_isSome {a : Answer} (h : (next? a).isSome = true) : ∃ t, a = .next t := by
  cases a with
  | next t => exact ⟨t, rfl⟩
  | fault r => cases h
  | refused r => cases h

/-- R50, R84: DMA between two cycles changes the memory array alone; beyond `MEM_WORDS` there is no word. -/
theorem test_dma :
    (next? (S0.act (.dmaWrite 0o3000 ⟨2, 5⟩))).map (fun t => (t.mem, t.pc)) = some ([(0o3000, ⟨2, 5⟩)], 0o1000) ∧
    (S0mem ⟨2, 5⟩).dmaRead 0o3000 = .next ⟨2, 5⟩ ∧
    S0.dmaRead S0.cfg.memWords = .fault (.noSuchAddress S0.cfg.memWords) := ⟨by decide, rfl, rfl⟩

/-! ### Witnesses: encoding and the cycle -/

theorem test_witness_DecodingIsTotal :
    (decode 0).opcode = 0 ∧ (decode 0o74777777).opcode = 63 ∧ (decode 0o02000000).opcode = 0o200 + 8 * 0 ∧
    (decode 0o77777777).opcode = 0o200 + 8 * 15 ∧ (0o74777777 : Half).getLsbD 19 = false ∧
    (0o77777777 : Half).getLsbD 19 = true := by decide

/-- Supervisor and user mode. -/
theorem test_witness_StepRunsDecodedHalf :
    (S0code.Inv ∧ S0code.stopped = none ∧ S0code.atBreakpoint = false ∧
      let t := S0code.beginCycle
      t.pc ≠ 0 ∧ t.sup = true ∧ t.ibp ≠ t.fetchVariant t.pc ∧
        (t.codeAt (t.fetchVariant t.pc)).tag = TWord.instructionTag) ∧
    ((S1mem ⟨1, code⟩).Inv ∧ (S1mem ⟨1, code⟩).stopped = none ∧ (S1mem ⟨1, code⟩).atBreakpoint = false ∧
      let t := (S1mem ⟨1, code⟩).beginCycle
      t.pc ≠ 0 ∧ t.pages.frame (pageOf t.pc) ≠ 0 ∧ t.ibp ≠ t.fetchVariant t.pc ∧
        (t.codeAt (t.fetchVariant t.pc)).tag = TWord.instructionTag) :=
  ⟨⟨test_S0code_inv, by decide⟩, test_S1code_inv, by decide⟩

/-- Each outcome has a state: the absent page, the breakpoint, both tags, and a step whose fetch raises. -/
theorem test_witness_FetchOutcomes :
    S1.Inv ∧ (S1.sup = false ∧ S1.pages.frame (pageOf 0o2000) = 0) ∧
    ({ S0 with ibp := 0o101000 } : State).Inv ∧ ({ S0 with ibp := 0o101000 } : State).ibp = variant S0.sup 0o1000 ∧
    (S0code.codeAt (variant S0code.sup 0o1000)).tag = 1 ∧ (S0.codeAt (variant S0.sup 0o1000)).tag ≠ 1 ∧
    (S0.stopped = none ∧ S0.atBreakpoint = false ∧ ∃ t, fetchWord S0.beginCycle.pc S0.beginCycle = .raise .insnCheck t) :=
  ⟨test_S1_inv, by decide, test_S0_inv.registers rfl rfl rfl rfl rfl rfl, by decide, by decide, by decide, by decide,
    by decide, raise_of_raises (by decide)⟩

/-- S0 with the fetch variant 0o101000 in the prefetch slot 3. -/
def S0pre : State := { S0 with prefetch := { S0.prefetch with bas := S0.prefetch.bas.set 3 0o101000 } }

theorem test_witness_PrefetchRule :
    (S0pre.Inv ∧ S0pre.cfg.cacheEnable = true ∧ S0pre.prefetch.search 0o101000 = some 3) ∧
    (S0.Inv ∧ S0.cfg.cacheEnable = true ∧ S0.prefetch.search 0o101000 = none ∧ Recency.victim4 S0.prefetch.lru = some 0) ∧
    (S0bypass.Inv ∧ S0bypass.cfg.cacheEnable = false) :=
  ⟨⟨test_S0_inv.congr rfl rfl rfl rfl ⟨rfl, rfl⟩ test_S0_inv.ruuReserved, by decide⟩, ⟨test_S0_inv, by decide⟩,
    test_S0bypass_inv, by decide⟩

theorem test_witness_HostStops :
    ({ S0 with stopped := some .halt } : State).stopped ≠ none ∧
    (let s : State := { S0 with host := { S0.host with breakE := [0o1000] } }
     s.stopped = none ∧ s.host.breakE.contains s.pc = true ∧ s.resuming = false) ∧
    ({ S0 with stopped := some .breakpoint } : State).stopped = some .breakpoint := by decide

/-- One state where an interrupt is due, and for each condition a state where that one alone fails. -/
theorem test_witness_InterruptEntry :
    let due := fun (s : State) => s.inDispatch = false ∧ s.right = false ∧ s.intrDisable = false ∧ s.grp &&& s.mgrp ≠ 0
    let s : State := { S1 with grp := 0o40000000, mgrp := 0o40000000 }
    due s ∧ ¬ due { s with inDispatch := true } ∧ ¬ due (s.setRight true) ∧ ¬ due (s.putM 0o21 0o2000) ∧
    ¬ due { s with mgrp := 0 } := by decide

theorem test_witness_FaultHandler : Cause.overflow ≠ .hostWatchR ∧ Cause.overflow ≠ .hostWatchW := by decide

theorem test_witness_IllegalInstructions : S1.Inv ∧ S1.sup = false := ⟨test_S1_inv, by decide⟩

theorem test_witness_StepKeepsInvariant : S0code.Inv ∧ ∃ t, step S0code = .next t :=
  ⟨test_S0code_inv, next_of_isSome (by decide)⟩

theorem test_witness_StepAlwaysAnswers : S0code.Inv ∧ (S1mem ⟨1, code⟩).Inv := ⟨test_S0code_inv, test_S1code_inv⟩

theorem test_witness_ResetMeetsInvariant : S1.Inv := test_S1_inv

/-- `2,ij,0` with a saved user mode, executed and stepped. -/
theorem test_witness_SupervisorLeftOnlyByReturn :
    let c := S0.putWord 0o1000 ⟨1, joinHalves 0o13200000 0⟩
    (S0.Inv ∧ S0.sup = true ∧ ∃ t, exec (.ij 2 0) S0 = .next t ∧ t.sup = false) ∧
    (c.Inv ∧ c.sup = true ∧ ∃ t, step c = .next t ∧ t.sup = false) := by
  refine ⟨⟨test_S0_inv, by decide, ?_⟩, test_S0_inv.putWord _ _ (by decide), by decide, ?_⟩
  · exact ⟨_, rfl, by decide⟩
  · have h : (next? (step (S0.putWord 0o1000 ⟨1, joinHalves 0o13200000 0⟩))).any (fun t => !t.sup) = true := by decide
    obtain ⟨t, ht⟩ := next_of_isSome (Option.isSome_of_any h)
    exact ⟨t, ht, by rw [ht] at h; simpa [next?] using h⟩

theorem test_witness_UserModeIsConfined : S1.Inv ∧ S1.sup = false ∧ ∃ t, exec (.utm 2 5) S1 = .next t ∧ t.sup = false := by
  have h : (next? (exec (.utm 2 5) S1)).any (fun t => !t.sup) = true := by decide
  obtain ⟨t, ht⟩ := next_of_isSome (Option.isSome_of_any h)
  exact ⟨test_S1_inv, by decide, t, ht, by rw [ht] at h; simpa [next?] using h⟩

/-! ### Witnesses: memory -/

/-- The protection fault and each exemption, both watches. -/
theorem test_witness_DataChecks :
    let closed : State := { S1 with pages := { S1.pages with rz := 0xFFFFFFFF } }
    closed.dataFault false 0o77777 = some (.operandProt 31) ∧ (closed.putM 0o21 2).dataFault false 0o77777 = none ∧
    ({ closed with ruu := 0o47 }.putM 0o21 1).dataFault true 7 = none ∧
    ({ closed with ruu := 0o47 }.putM 0o21 1).dataFault true 8 = some (.operandProt 0) ∧
    ({ S0 with dwp := 0o103000 } : State).dataFault false 0o3000 = some .loadWatch ∧
    ({ S0 with dwp := 0o103000 } : State).dataFault true 0o3000 = none ∧
    ({ S0 with host := { S0.host with watchW := [0o103000] } } : State).dataFault true 0o3000 = some .hostWatchW := by
  decide

/-- A fault; a hit with either tag; a miss on a console register at both ends, with and without the cache, and on a word of
either tag. -/
theorem test_witness_LoadRule :
    (({ S0 with dwp := 0o103000 } : State).Inv ∧ ({ S0 with dwp := 0o103000 } : State).dataFault false 0o3000 = some .loadWatch) ∧
    ((S0hit ⟨2, 5⟩).Inv ∧ (S0hit ⟨2, 5⟩).dataFault false 0o3000 = none ∧
      (S0hit ⟨2, 5⟩).cache.search ((S0hit ⟨2, 5⟩).dataVariant 0o3000) = some 3 ∧ (S0hit ⟨2, 5⟩).cache.brz[3].tag = 2) ∧
    ((S0hit ⟨1, 5⟩).Inv ∧ (S0hit ⟨1, 5⟩).cache.brz[3].tag ≠ 2) ∧
    (S0.Inv ∧ S0.cache.search (S0.dataVariant 7) = none ∧ S0.phys (S0.dataVariant 7) < 8 ∧
      ¬ S0.phys (S0.dataVariant 8) < 8 ∧ S0bypass.Inv ∧ S0bypass.cfg.cacheEnable = false) ∧
    ((S0mem ⟨2, 5⟩).Inv ∧ 8 ≤ S0.phys (S0.dataVariant 0o3000) ∧ (Memory.read (S0mem ⟨2, 5⟩).mem 0o3000).tag = 2 ∧
      (Memory.read S0.mem 0o3000).tag ≠ 2) :=
  ⟨⟨test_S0_inv.registers rfl rfl rfl rfl rfl rfl, by decide⟩, ⟨test_S0hit_inv _, by decide⟩,
    ⟨test_S0hit_inv _, by decide⟩, ⟨test_S0_inv, by decide, by decide, by decide, test_S0bypass_inv, by decide⟩,
    test_S0mem_inv _, by decide⟩

/-- A fault; bypass mode to a console address and to another; a sweep trigger with the counter at both ends; a hit; a miss. -/
theorem test_witness_StoreRule :
    (let w : State := { S0.putM 0o21 0o2037 with dwp := 0o103000 }
     w.Inv ∧ w.dataFault true 0o3000 = some .storeWatch) ∧
    (S0bypass.Inv ∧ S0bypass.dataFault true 7 = none ∧ S0bypass.cfg.cacheEnable = false ∧
      isConsoleVariant (S0bypass.dataVariant 7) = true ∧ isConsoleVariant (S0bypass.dataVariant 8) = false) ∧
    ((S0.setFlush 8).Inv ∧ 8 ≤ (S0.setFlush 8).cache.flush.toNat ∧ isConsoleVariant ((S0.setFlush 8).dataVariant 1) = true) ∧
    ((S0.setFlush 7).Inv ∧ (S0.setFlush 7).cache.flush.toNat < 8 ∧ (S0.setFlush 7).sweepTakes = some 0) ∧
    ((S0hit ⟨2, 5⟩).Inv ∧ isConsoleVariant ((S0hit ⟨2, 5⟩).dataVariant 0o3000) = false ∧
      (S0hit ⟨2, 5⟩).cache.search ((S0hit ⟨2, 5⟩).dataVariant 0o3000) = some 3) ∧
    (S0.Inv ∧ S0.dataFault true 0o3000 = none ∧ S0.cache.search (S0.dataVariant 0o3000) = none ∧
      Recency.victim8 S0.cache.tabst = some 0) :=
  ⟨⟨(test_S0_inv.putM 0o21 0o2037).registers rfl rfl rfl rfl rfl rfl, by decide⟩, ⟨test_S0bypass_inv, by decide⟩,
    ⟨test_S0_inv.setFlush _ (by decide), by decide⟩, ⟨test_S0_inv.setFlush _ (by decide), by decide⟩,
    ⟨test_S0hit_inv _, by decide⟩, test_S0_inv, by decide⟩

theorem test_witness_StoreFrame : S0.Inv ∧ ∃ t, memWrite 0o3000 5 S0 = .ok () t :=
  ⟨test_S0_inv, ok_of_completes (by decide)⟩

/-- A store to another address while 0o103000 is cached over memory, and one while 0o103001 is not in the cache. -/
theorem test_witness_StoreThenLoad :
    let s := S0hit ⟨2, 5⟩
    s.Inv ∧ s.cfg.cacheEnable = true ∧ isConsoleVariant (s.dataVariant 0o2000) = false ∧
    (∃ t, memWrite 0o2000 7 s = .ok () t) ∧ (0o103000 : Variant) ≠ s.dataVariant 0o2000 ∧
    (s.cache.search 0o103000).isSome = true ∧ 8 ≤ s.phys 0o103000 ∧
    s.cache.search 0o103001 = none ∧ s.storeReaches 0o2000 ≠ some (s.phys 0o103001) :=
  ⟨test_S0hit_inv _, by decide, by decide, ok_of_completes (by decide), by decide, by decide, by decide, by decide, by decide⟩

/-- Both ends of the trigger addresses; a slot that holds a word to write back. -/
theorem test_witness_SweepDrainsTheCache :
    let s := S0hit ⟨2, 5⟩
    s.Inv ∧ s.cfg.cacheEnable = true ∧ s.cache.flush = 0 ∧ isConsoleVariant (s.dataVariant 1) = true ∧
    isConsoleVariant (s.dataVariant 7) = true ∧ s.dataFault true 1 = none ∧ s.dataFault true 7 = none ∧
    s.writeBackAddr 3 = some 0o3000 :=
  ⟨test_S0hit_inv _, by decide⟩

theorem test_witness_RecencyOrder :
    Recency.isOrder Recency.row8 8 (0 : BitVec 28) ∧ Recency.isOrder Recency.row4 4 (0 : BitVec 6) :=
  ⟨Recency.isOrder_zero _ _ _, Recency.isOrder_zero _ _ _⟩

/-! ### Witnesses: the arithmetic unit -/

/-- Positive and negative normalized mantissas, the exponent at both ends. -/
theorem test_witness_NormRoundIsIdempotent :
    let p : Alu.Work := { m := 1#42 <<< 39, e := 0 }
    let q : Alu.Work := { m := Alu.signBit, e := 127 }
    (0 ≤ p.e ∧ p.e < 128 ∧ p.m.getLsbD 40 ≠ p.m.getLsbD 39) ∧ (0 ≤ q.e ∧ q.e < 128 ∧ q.m.getLsbD 40 ≠ q.m.getLsbD 39) ∧
    (0 : BitVec 6).getLsbD 1 = false := by decide

theorem test_witness_ResultsAreNormalized : (0o76 : BitVec 6).getLsbD 0 = false := by decide

/-! ### Witnesses: the instructions -/

/-- The pop form and the address form, each completing and raising. -/
theorem test_witness_OperandForms :
    let s := (S0mem ⟨2, 5⟩).putM 0o17 0o3001
    s.Inv ∧ (∃ t, operandAt 0o17 0 s = .ok 5 t) ∧ (∃ t, operandAt 0 0o3000 s = .ok 5 t) ∧
    (∃ t, operandAt 0o17 0 S0 = .raise (.ramCheck 7) t) ∧ (∃ t, operandAt 0 0o3000 S0 = .raise (.ramCheck 0) t) :=
  ⟨(test_S0mem_inv _).putM _ _, ok_of_loads (by decide), ok_of_loads (by decide), raise_of_raises (by decide),
    raise_of_raises (by decide)⟩

/-- An operand that loads, and one that raises: what `OperandRule` and `ArithRule` ask, for LoadAndLogic,
BitAndShiftByOperand and AddressModifier. -/
theorem test_witness_OperandRule :
    (S0mem ⟨2, 5⟩).Inv ∧ (∃ u, operandAt 0 ((S0mem ⟨2, 5⟩).modified 0o3000) (S0mem ⟨2, 5⟩) = .ok 5 u) ∧
    (∃ u, operandAt 0 (S0.modified 0o3000) S0 = .raise (.ramCheck 0) u) :=
  ⟨test_S0mem_inv _, ok_of_loads (by decide), raise_of_raises (by decide)⟩

/-- The largest number and the operand that is the same: `a+x`, `a*x` overflow; with 3.0 they do not. -/
def big : State := { S0mem ⟨2, 0o7750000000000000⟩ with acc := 0o7750000000000000 }

theorem test_big_inv : big.Inv := (test_S0mem_inv ⟨2, 0o7750000000000000⟩).registers rfl rfl rfl rfl rfl rfl

theorem test_witness_AddAndSubtract :
    big.Inv ∧ (∃ u, operandAt 0 (big.modified 0o3000) big = .ok 0o7750000000000000 u) ∧
    (∃ u, operandAt 0 (S0.modified 0o3000) S0 = .raise (.ramCheck 0) u) ∧
    (Alu.add big.rau big.acc big.rmr big.acc false false).overflow = true ∧
    (Alu.add big.rau big.acc big.rmr big.acc false true).overflow = false :=
  ⟨test_big_inv, ok_of_loads (by decide), raise_of_raises (by decide), by decide, by decide⟩

theorem test_witness_SignAndExponentByOperand :
    big.Inv ∧ (∃ u, operandAt 0 (big.modified 0o3000) big = .ok 0o7750000000000000 u) ∧
    (Alu.addExponent big.rau big.acc 63).overflow = true ∧ (Alu.addExponent big.rau big.acc (-63)).overflow = false ∧
    (Alu.changeSign big.rau 0o7760000000000000 true).overflow = true :=
  ⟨test_big_inv, ok_of_loads (by decide), by decide, by decide, by decide⟩

/-- A divisor that is not normalized, a quotient that overflows and one that does not. -/
theorem test_witness_MultiplyAndDivide :
    let s : State := { S0mem ⟨2, 0o4044000000000000⟩ with acc := 0o4050000000000000 }
    let t : State := { S0mem ⟨2, 0o0050000000000000⟩ with acc := 0o7750000000000000 }
    (s.Inv ∧ (∃ u, operandAt 0 (s.modified 0o3000) s = .ok 0o4044000000000000 u) ∧
      (0o4044000000000000 : Word).getLsbD 40 = (0o4044000000000000 : Word).getLsbD 39) ∧
    (t.Inv ∧ (∃ u, operandAt 0 (t.modified 0o3000) t = .ok 0o0050000000000000 u) ∧
      (0o0050000000000000 : Word).getLsbD 40 ≠ (0o0050000000000000 : Word).getLsbD 39 ∧
      (Alu.divide t.rau t.acc t.rmr 0o0050000000000000).overflow = true) ∧
    (Alu.divide t.rau t.acc t.rmr 0o7750000000000000).overflow = false ∧
    (Alu.multiply t.rau t.acc t.rmr t.acc).overflow = true ∧ (Alu.multiply t.rau t.acc t.rmr 0).overflow = false :=
  ⟨⟨(test_S0mem_inv ⟨2, 0o4044000000000000⟩).registers rfl rfl rfl rfl rfl rfl, ok_of_loads (by decide), by decide⟩,
    ⟨(test_S0mem_inv ⟨2, 0o0050000000000000⟩).registers rfl rfl rfl rfl rfl rfl, ok_of_loads (by decide), by decide, by decide⟩,
    by decide, by decide, by decide⟩

/-- The constants at both ends of their range, each overflowing one of the pair. -/
theorem test_witness_ExponentByConstant :
    big.Inv ∧
    (let n : Int := ((big.modified 0o177 + big.getM 0).extractLsb' 0 7).toNat - 64
     n = 63 ∧ (Alu.addExponent big.rau big.acc n).overflow = true ∧ (Alu.addExponent big.rau big.acc (-n)).overflow = false) ∧
    (let n : Int := ((big.modified 0 + big.getM 0).extractLsb' 0 7).toNat - 64
     n = -64 ∧ (Alu.addExponent big.rau big.acc n).overflow = false ∧ (Alu.addExponent big.rau big.acc (-n)).overflow = true) :=
  ⟨test_big_inv, by decide, by decide⟩

/-- The logical class; another class with a result in range and with one that overflows. -/
theorem test_witness_ReadRemainder :
    let s : State := { big with rmr := 0o10000000000000, rau := 0o10 }
    ({ s with rau := 0o47 } : State).Inv ∧ ({ s with rau := 0o47 } : State).rau.extractLsb' 2 3 = 1 ∧
    s.Inv ∧ s.rau.extractLsb' 2 3 ≠ 1 ∧
    (Alu.addExponent s.rau (s.acc.extractLsb' 41 7 ++ 0#1 ++ s.rmr.extractLsb' 0 40) 0).overflow = false ∧
    (Alu.addExponent s.rau (s.acc.extractLsb' 41 7 ++ 0#1 ++ s.rmr.extractLsb' 0 40) 63).overflow = true :=
  ⟨test_big_inv.registers rfl rfl rfl rfl rfl rfl, by decide, test_big_inv.registers rfl rfl rfl rfl rfl rfl, by decide,
    by decide, by decide⟩

/-- S0 with stores at 0o3000 watched. -/
def S0watch : State := { S0.putM 0o21 0o2037 with dwp := 0o103000 }

theorem test_S0watch_inv : S0watch.Inv := (test_S0_inv.putM _ _).registers rfl rfl rfl rfl rfl rfl

/-- The address form and the push form store; a watched store raises. -/
theorem test_witness_StoreAccumulator :
    S0.Inv ∧ (∃ u, memWrite (S0.modified 0o3000 + S0.getM 0) S0.acc S0 = .ok () u) ∧
    (∃ u, memWrite (S0.modified 0 + S0.getM 0o17) S0.acc S0 = .ok () u) ∧
    S0watch.Inv ∧ (∃ u, memWrite (S0watch.modified 0o3000 + S0watch.getM 0) S0watch.acc S0watch = .raise .storeWatch u) :=
  ⟨test_S0_inv, ok_of_completes (by decide), ok_of_completes (by decide), test_S0watch_inv, raise_of_raises (by decide)⟩

/-- `stx` and `xts`: both accesses complete, the second raises, the first raises. -/
theorem test_witness_StackExchange :
    let s := (S0mem ⟨2, 5⟩).putM 0o17 0o3001
    let w := S0watch.putM 0o17 0o3000
    s.Inv ∧ w.Inv ∧
    (∃ u, memWrite (s.modified 0o2000 + s.getM 0) s.acc s = .ok () u ∧
      ∃ v, memRead (s.getM 0o17 - 1) (u.putM 0o17 (s.getM 0o17 - 1)) = .ok 5 v) ∧
    (∃ u, memWrite (S0.modified 0o2000 + S0.getM 0) S0.acc S0 = .ok () u ∧
      ∃ v, memRead (S0.getM 0o17 - 1) (u.putM 0o17 (S0.getM 0o17 - 1)) = .raise (.ramCheck 7) v) ∧
    (∃ u, memWrite (w.modified 0o3000 + w.getM 0) w.acc w = .raise .storeWatch u) ∧
    (∃ u, memWrite (s.getM 0o17) s.acc s = .ok () u ∧
      (∃ v, memRead (s.modified 0o3000 + (u.putM 0o17 (s.getM 0o17 + 1)).getM 0) (u.putM 0o17 (s.getM 0o17 + 1)) = .ok 5 v) ∧
      ∃ v, memRead (s.modified 0o3002 + (u.putM 0o17 (s.getM 0o17 + 1)).getM 0) (u.putM 0o17 (s.getM 0o17 + 1)) =
        .raise (.ramCheck 2) v) ∧
    (∃ u, memWrite (w.getM 0o17) w.acc w = .raise .storeWatch u) :=
  ⟨(test_S0mem_inv _).putM _ _, test_S0watch_inv.putM _ _, ⟨_, rfl, ok_of_loads (by decide)⟩,
    ⟨_, rfl, raise_of_raises (by decide)⟩, raise_of_raises (by decide),
    ⟨_, rfl, ok_of_loads (by decide), raise_of_raises (by decide)⟩, raise_of_raises (by decide)⟩

/-- `sti` to a register and to the stack pointer, each completing and raising; `its` of a present register, of both absent
ones, and with a push that raises. -/
theorem test_witness_StackAndIndex :
    let s : State := { (S0mem ⟨2, 5⟩).putM 0o17 0o3001 with acc := 0o3000 }
    let w := S0watch.putM 0o17 0o3000
    s.Inv ∧ w.Inv ∧ s.sel (s.modified 3 + s.getM 0) ≠ 0o17 ∧ s.sel (s.modified 0o17 + s.getM 0) = 0o17 ∧
    (∃ v, memRead (s.getM 0o17 - 1) (s.putM 0o17 (s.getM 0o17 - 1)) = .ok 5 v) ∧
    (∃ v, memRead (S0.getM 0o17 - 1) (S0.putM 0o17 (S0.getM 0o17 - 1)) = .raise (.ramCheck 7) v) ∧
    (∃ v, memRead (s.acc.setWidth 15) s = .ok 5 v) ∧
    (∃ v, memRead (({ S0 with acc := 0o3000 } : State).acc.setWidth 15) { S0 with acc := 0o3000 } = .raise (.ramCheck 0) v) ∧
    (∃ u, memWrite (s.getM 0o17) s.acc s = .ok () u ∧
      let v := u.putM 0o17 (s.getM 0o17 + 1)
      v.sel (s.modified 0o35 + v.getM 0) < 0o36 ∧ 0o36 ≤ v.sel (s.modified 0o36 + v.getM 0) ∧
        0o36 ≤ v.sel (s.modified 0o37 + v.getM 0)) ∧
    (∃ u, memWrite (w.getM 0o17) w.acc w = .raise .storeWatch u) :=
  ⟨((test_S0mem_inv ⟨2, 5⟩).putM 0o17 0o3001).registers rfl rfl rfl rfl rfl rfl, test_S0watch_inv.putM _ _, by decide, by decide,
    ok_of_loads (by decide), raise_of_raises (by decide), ok_of_loads (by decide), raise_of_raises (by decide),
    ⟨_, rfl, by decide, by decide, by decide⟩, raise_of_raises (by decide)⟩

/-- For the statements about every state of one mode: ConstantShiftAndModes, IndexRegisterMoves, RegisterFromAddress,
ConditionalBranches, JumpsAndLoops, Extracodes ask the invariant alone; RegisterFromOwnAddress and ReturnInstruction
supervisor mode. -/
theorem test_witness_modes : S0.Inv ∧ S0.sup = true ∧ S1.Inv ∧ S1.sup = false :=
  ⟨test_S0_inv, by decide, test_S1_inv, by decide⟩

theorem test_witness_RegisterFile : (1 : Nat) ≠ 0 ∧ 1 < 0o36 ∧ (0o35 : Nat) ≠ 0 ∧ 0o35 < 0o36 ∧ (0o34 : Nat) ≠ 0o35 := by decide

/-- Both ends of every range of functions; no function is in two ranges. -/
theorem test_witness_SpecialRegister :
    S0.Inv ∧ S0.sup = true ∧
    ∀ n ∈ [0, 0o007, 0o010, 0o017, 0o020, 0o027, 0o030, 0o033, 0o034, 0o035, 0o036, 0o037, 0o040, 0o077, 0o100, 0o137,
      0o140, 0o177, 0o200, 0o207, 0o210, 0o236, 0o237, 0o240, 0o377],
      ((S0.modified (BitVec.ofNat 15 n) + S0.getM 0).extractLsb' 0 8).toNat = n :=
  ⟨test_S0_inv, by decide, by decide⟩

/-- The four ports of PRP and MPRP, another port of each direction. -/
theorem test_witness_PortAccess :
    S0.Inv ∧ S0.sup = true ∧
    (∀ n ∈ [0o0030, 0o0034, 0o4030, 0o4034, 0, 0o4177],
      (S0.modified (BitVec.ofNat 15 n) + S0.getM 0) &&& 0o4177 = BitVec.ofNat 15 n) ∧
    (0 : Addr).getLsbD 11 = false ∧ (0o4177 : Addr).getLsbD 11 = true :=
  ⟨test_S0_inv, by decide, by decide, by decide, by decide⟩

/-- A short extracode at each end of the range and both long ones. -/
theorem test_witness_ExtracodeThenReturn :
    S1.Inv ∧ S1.sup = false ∧
    ∀ i ∈ [Instr.ex50 0 0o10, .ex77 3 0o7777, .ex20 0 0o12345, .ex21 0 0],
      ((0o50 ≤ i.opcode ∧ i.opcode ≤ 0o77) ∨ i.opcode = 0o200 ∨ i.opcode = 0o210) ∧
      ∃ t, exec i S1 = .next t ∧ ∃ u, exec (.ij 2 0) t = .next u := by
  refine ⟨test_S1_inv, by decide, fun i hi => ?_⟩
  simp only [List.mem_cons, List.not_mem_nil, or_false] at hi
  obtain rfl | rfl | rfl | rfl := hi <;> exact ⟨by decide, _, rfl, _, rfl⟩

theorem test_witness_StopInstruction :
    (S0.Inv ∧ S0.sup = true) ∧ (S1.Inv ∧ S1.sup = false ∧ S1.psw.getLsbD 3 = false) ∧
    ((S1.putM 0o21 0o10).Inv ∧ (S1.putM 0o21 0o10).sup = false ∧ (S1.putM 0o21 0o10).psw.getLsbD 3 = true) :=
  ⟨⟨test_S0_inv, by decide⟩, ⟨test_S1_inv, by decide⟩, test_S1_inv.putM _ _, by decide⟩

end Sys2Proof.Machine.Tests
end

/-!
PROOFS of the family of the state: the register file, and the invariant through every step. The invariant goes through
the parts of a cycle as one predicate on their results, `Res.KeepsInv`: each shared operation gets one lemma, each
instruction is assembled from them.
-/
namespace Sys2Proof.Machine

/-! ### The register file -/

theorem State.putM_ibp_other (s : State) {r : Nat} (v : Addr) (h : r ≠ 0o34) : (s.putM r v).ibp = s.ibp := by
  unfold State.putM
  split_ifs <;> rfl

theorem State.putM_dwp_other (s : State) {r : Nat} (v : Addr) (h : r ≠ 0o35) : (s.putM r v).dwp = s.dwp := by
  unfold State.putM
  split_ifs <;> rfl

/-- A write to M reaches only the three fields that hold the registers. -/
theorem State.putM_frame (s : State) (r : Nat) (v : Addr) :
    { s.putM r v with m := s.m, ibp := s.ibp, dwp := s.dwp } = s := by
  unfold State.putM
  split_ifs <;> rfl

/-- Settles O48: each clause is one law of `putM`. -/
theorem registerFile : Obligations.RegisterFile := fun s r q v =>
  ⟨s.getM_zero, s.putM_zero v, s.getM_putM_same r v, s.getM_putM_other r q v, rfl, rfl, s.putM_ibp_other v,
    s.putM_dwp_other v, s.putM_frame r v⟩

/-! ### The parts of a cycle that keep the invariant -/

/-- The part of a cycle completes or raises in a state that meets the invariant; it is never stuck. -/
def Res.KeepsInv {α : Type} : Res α → Prop
  | .ok _ s => s.Inv
  | .raise _ s => s.Inv
  | .stuck _ => False

/-- The answer is a next state, and it meets the invariant. -/
def AnswersInv (r : Answer) : Prop := ∃ t, r = .next t ∧ t.Inv

theorem AnswersInv.inv {r : Answer} {t : State} (h : AnswersInv r) (ht : r = .next t) : t.Inv := by
  obtain ⟨u, rfl, hu⟩ := h
  cases ht
  exact hu

theorem Res.KeepsInv.andThen {α β : Type} {r : Res α} {k : α → State → Res β} (hr : r.KeepsInv)
    (hk : ∀ a s, s.Inv → (k a s).KeepsInv) : (r.andThen k).KeepsInv := by
  cases r with
  | ok a s => exact hk a s hr
  | raise c s => exact hr
  | stuck x => exact hr

theorem Res.KeepsInv.undoing {α : Type} {r : Res α} {d : Addr} (hr : r.KeepsInv) : (r.undoing d).KeepsInv := by
  cases r with
  | ok a s => exact hr
  | raise c s => exact hr.putM _ _
  | stuck x => exact hr

/-! ### Updates of the state that the instructions make -/

section updates
variable {s : State} (h : s.Inv)
include h

theorem State.Inv.setAlu (acc rmr : Word) (rau : BitVec 6) : { s with acc := acc, rmr := rmr, rau := rau }.Inv :=
  h.registers rfl rfl rfl rfl rfl rfl

theorem State.Inv.setDraws (n : Nat) : { s with draws := n }.Inv := h.registers rfl rfl rfl rfl rfl rfl

theorem State.Inv.pushed (reg : BitVec 4) (a : Addr) : (s.pushed reg a).Inv := by
  unfold State.pushed
  split_ifs
  · exact h.putM _ _
  · exact h

theorem State.Inv.loadPswBits (reg : BitVec 4) (a : Addr) : (s.loadPswBits reg a).Inv := by
  unfold State.loadPswBits
  split_ifs
  · exact h.putM _ _
  · exact h

/-- The content of a slot is free; the invariant speaks of its address alone. -/
theorem State.Inv.setCacheSlot (k : Fin 8) (v : Word) : (s.setCacheSlot k v).Inv :=
  h.setCache _ h.cacheOrder h.slotsDistinct h.sweepCount

theorem State.Inv.setControl (f : BitVec 8) : (s.setControl f).Inv :=
  have h5 := reserved_setBit _ 5 (f.getLsbD 0) (by decide) (by decide) h.ruuReserved
  have h0 := reserved_setBit _ 0 (f.getLsbD 1) (by decide) (by decide) h5
  h.setRuu _ (reserved_setBit _ 1 (f.getLsbD 2) (by decide) (by decide) h0)

theorem State.Inv.modWrite (f : BitVec 8) : (s.modWrite f).Inv := by
  unfold State.modWrite
  simp only
  split_ifs
  · exact h.setCacheSlot _ _
  · exact h
  · exact h.setPageRegister _ _
  · exact h.setProtection _ _
  · exact h.registers rfl rfl rfl rfl rfl rfl
  · exact h.registers rfl rfl rfl rfl rfl rfl
  · exact h
  · exact h.setControl f

theorem State.Inv.modRead (f : BitVec 8) : (s.modRead f).Inv := by
  unfold State.modRead
  split_ifs
  · exact h.setAlu _ _ _
  · exact h.setAlu _ _ _
  · exact h

theorem State.Inv.portWrite (port : Addr) : (s.portWrite port).Inv := by
  unfold State.portWrite
  split_ifs <;> exact h.registers rfl rfl rfl rfl rfl rfl

theorem State.Inv.portRead (port : Addr) : (s.portRead port).Inv := by
  unfold State.portRead
  split_ifs <;> exact h.setAlu _ _ _

/-! ### The shared operations of the instructions -/

theorem memRead_keepsInv (a : Addr) : (memRead a s).KeepsInv := by
  cases hr : memRead a s with
  | ok x t => exact memRead_inv h hr
  | raise c t => exact memRead_raise_inv h hr
  | stuck x => exact memRead_not_stuck h hr

theorem memWrite_keepsInv (a : Addr) (v : Word) : (memWrite a v s).KeepsInv := by
  rw [memWrite_eq h]
  split_ifs
  · exact h
  · cases s.dataFault true a with
    | some c => exact h
    | none => exact h.stored a v

theorem pushAcc_keepsInv : (pushAcc s).KeepsInv :=
  (memWrite_keepsInv h _ _).andThen fun _ _ ht => ht.putM _ _

theorem withOperand_keepsInv {α : Type} {rest : Word → State → Res α} {reg : BitVec 4} {a : Addr}
    (hrest : ∀ x t, t.Inv → (rest x t).KeepsInv) : (withOperand reg a s rest).KeepsInv := by
  unfold withOperand
  split_ifs
  · exact .undoing ((memRead_keepsInv (h.putM _ _) _).andThen hrest)
  · exact (memRead_keepsInv h _).andThen hrest

theorem withPop_keepsInv {α : Type} {rest : Word → State → Res α} (hrest : ∀ x t, t.Inv → (rest x t).KeepsInv) :
    (withPop s rest).KeepsInv :=
  .undoing ((memRead_keepsInv (h.putM _ _) _).andThen hrest)

theorem withReadM_keepsInv {α : Type} {rest : Addr → State → Res α} {r : Nat}
    (hrest : ∀ v t, t.Inv → (rest v t).KeepsInv) : (withReadM r s rest).KeepsInv := by
  unfold withReadM
  split_ifs
  · exact hrest _ _ (h.setDraws _)
  · exact hrest _ _ h

/-- Overflow is raised after ACC and RMR are written, so both ends are at that state. -/
theorem writeAlu_keepsInv {α : Type} {rest : State → Res α} {r : Alu.Out} (hrest : ∀ t, t.Inv → (rest t).KeepsInv) :
    (writeAlu r s rest).KeepsInv := by
  unfold writeAlu
  simp only
  split_ifs
  · exact h.setAlu _ _ _
  · exact hrest _ (h.setAlu _ _ _)

theorem arithEnd_keepsInv {setter : State → State} {r : Alu.Out} (hset : ∀ t, t.Inv → (setter t).Inv) :
    (arithEnd r setter s).KeepsInv :=
  writeAlu_keepsInv h hset

theorem branch_keepsInv (taken : Bool) (target : Addr) : (branch taken target s).KeepsInv := by
  unfold branch
  split_ifs
  · exact h.jump _
  · exact h

theorem supervisorOnly_keepsInv {r : Res Flow} (hr : r.KeepsInv) : (supervisorOnly s r).KeepsInv := by
  unfold supervisorOnly
  split_ifs
  · exact hr
  · exact h

theorem modFunction_keepsInv (f : BitVec 8) : (modFunction f s).KeepsInv := by
  unfold modFunction
  split_ifs
  · exact (h.modRead f).setAlu _ _ _
  · exact h
  · exact h.modWrite f

/-! ### One half-instruction -/

/-- The advance keeps the invariant and the end of the cycle keeps it, so only the instruction's own part is left to look
at. -/
theorem runHalf_answersInv {body : Addr → State → Res Flow} {addr : Addr}
    (hbody : ∀ a t, t.Inv → (body a t).KeepsInv) :
    AnswersInv (runHalf addr s body) := by
  rw [runHalf_eq h]
  have hb := hbody (s.modified addr) _ h.stepOver_lookahead
  cases hr : body (s.modified addr) (s.stepOver s.lookahead) with
  | ok f t => rw [hr] at hb; exact ⟨_, rfl, hb.endCycle _ f⟩
  | raise c t => rw [hr] at hb; exact ⟨_, rfl, hb.takeCause c⟩
  | stuck x => rw [hr] at hb; exact hb.elim

theorem runOperand_answersInv {rest : Word → State → Res Flow} {reg : BitVec 4} {addr : Addr}
    (hrest : ∀ x t, t.Inv → (rest x t).KeepsInv) : AnswersInv (runOperand reg addr s rest) :=
  runHalf_answersInv h fun _ _ ht => withOperand_keepsInv ht hrest

/-- An operand, an arithmetic operation, and a class setter. -/
theorem runArith_answersInv {result : Word → State → Alu.Out} {setter : State → State} {reg : BitVec 4} {addr : Addr}
    (hset : ∀ t, t.Inv → (setter t).Inv) :
    AnswersInv (runOperand reg addr s fun x t => arithEnd (result x t) setter t) :=
  runOperand_answersInv h fun _ _ ht => arithEnd_keepsInv ht hset

theorem extracode_answersInv {nn : Nat} {reg : BitVec 4} {addr : Addr} : AnswersInv (extracode nn reg addr s) :=
  runHalf_answersInv h fun _ _ ht => ht.enterExtracode _ _ _

end updates

theorem State.Inv.setAdditive {s : State} (h : s.Inv) : s.setAdditive.Inv := h.setAlu _ _ _

theorem State.Inv.setMultiplicative {s : State} (h : s.Inv) : s.setMultiplicative.Inv := h.setAlu _ _ _

/-- Every instruction answers a next state that meets the invariant. -/
theorem exec_answersInv (i : Instr) {s : State} (h : s.Inv) : AnswersInv (exec i s) := by
  unfold exec
  cases i with
  -- stores and the stack
  | atx reg addr =>
    exact runHalf_answersInv h fun _ _ ht => (memWrite_keepsInv ht _ _).andThen fun _ _ hu => hu.pushed _ _
  | stx reg addr =>
    exact runHalf_answersInv h fun _ _ ht => (memWrite_keepsInv ht _ _).andThen fun _ _ hu =>
      withPop_keepsInv hu fun _ _ hv => hv.setAlu _ _ _
  | xts reg addr =>
    exact runHalf_answersInv h fun _ _ ht => (pushAcc_keepsInv ht).andThen fun _ _ hu =>
      .undoing ((memRead_keepsInv hu _).andThen fun _ _ hv => hv.setAlu _ _ _)
  -- an operand in memory, then ACC, RMR and RAU alone
  | xta reg addr | aax reg addr | aex reg addr | arx reg addr | aox reg addr | apx reg addr | aux reg addr
  | acx reg addr | asx reg addr | xtr reg addr =>
    exact runOperand_answersInv h fun _ _ ht => ht.setAlu _ _ _
  | anx reg addr =>
    refine runOperand_answersInv h fun x t ht => ?_
    split_ifs
    · exact ht.setAlu _ _ _
    · exact ht.setAlu _ _ _
  -- an operand in memory, then an arithmetic operation
  | aPlusX reg addr | aMinusX reg addr | xMinusA reg addr | amx reg addr | avx reg addr =>
    exact runArith_answersInv h fun _ ht => ht.setAdditive
  | aMulX reg addr | ePlusX reg addr | eMinusX reg addr =>
    exact runArith_answersInv h fun _ ht => ht.setMultiplicative
  | aDivX reg addr =>
    refine runOperand_answersInv h fun x t ht => ?_
    split_ifs
    · exact ht
    · exact arithEnd_keepsInv ht fun _ hu => hu.setMultiplicative
  -- ACC, RMR and RAU from the registers and the address
  | rte reg addr | asn reg addr | ntr reg addr =>
    exact runHalf_answersInv h fun _ _ ht => ht.setAlu _ _ _
  | ePlusN reg addr | eMinusN reg addr =>
    exact runHalf_answersInv h fun _ _ ht => arithEnd_keepsInv ht fun _ hu => hu.setMultiplicative
  | yta reg addr =>
    refine runHalf_answersInv h fun a t ht => ?_
    split_ifs
    · exact ht.setAlu _ _ _
    · exact writeAlu_keepsInv ht fun _ hu => hu.setAlu _ _ _
  -- the supervisor's instructions
  | mod reg addr => exact runHalf_answersInv h fun _ _ ht => supervisorOnly_keepsInv ht (modFunction_keepsInv ht _)
  | op32 reg addr => exact runHalf_answersInv h fun _ _ ht => ht
  | ext reg addr =>
    refine runHalf_answersInv h fun a t ht => supervisorOnly_keepsInv ht ?_
    simp only
    split_ifs
    · exact (ht.portRead _).setAlu _ _ _
    · exact ht.portWrite _
  | ij reg addr => exact runHalf_answersInv h fun _ _ ht => supervisorOnly_keepsInv ht (ht.returnFrom _)
  | stop reg addr =>
    refine runHalf_answersInv h fun a t ht => ?_
    split_ifs
    · exact ht
    · exact ht
    · exact ht.enterExtracode _ _ _
  -- the registers M
  | ati reg addr | mtj reg addr => exact runHalf_answersInv h fun _ _ ht => ht.putM _ _
  | sti reg addr =>
    refine runHalf_answersInv h fun a t ht => ?_
    have last : ∀ r v (x : Word) (u : State), u.Inv → ({ u with acc := x }.putM r v).setLogical.Inv :=
      fun r v x u hu => ((hu.setAlu x u.rmr u.rau).putM r v).setAlu _ _ _
    simp only
    split_ifs
    · exact (memRead_keepsInv ht _).andThen (last _ _)
    · exact withPop_keepsInv ht (last _ _)
  | ita reg addr =>
    exact runHalf_answersInv h fun _ _ ht => withReadM_keepsInv ht fun _ _ hu => hu.setAlu _ _ _
  | its reg addr =>
    exact runHalf_answersInv h fun _ _ ht => (pushAcc_keepsInv ht).andThen fun _ _ hu =>
      withReadM_keepsInv hu fun _ _ hv => hv.setAlu _ _ _
  | jPlusM reg addr =>
    refine runHalf_answersInv h fun a t ht => ?_
    split_ifs
    · exact ht.putM _ _
    · exact ht.putM _ _
  | op46 reg addr | op47 reg addr =>
    exact runHalf_answersInv h fun _ _ ht => supervisorOnly_keepsInv ht (ht.putM _ _)
  | utc reg addr => exact runHalf_answersInv h fun _ _ ht => ht
  | wtc reg addr => exact runHalf_answersInv h fun _ _ ht => withOperand_keepsInv ht fun _ _ hu => hu
  | vtm reg addr | utm reg addr => exact runHalf_answersInv h fun _ _ ht => (ht.putM _ _).loadPswBits _ _
  -- transfers of control
  | uza reg addr | u1a reg addr =>
    exact runHalf_answersInv h fun _ _ ht => branch_keepsInv (ht.setAlu _ _ _) _ _
  | uj reg addr => exact runHalf_answersInv h fun _ _ ht => ht.jump _
  | vjm reg addr => exact runHalf_answersInv h fun _ _ ht => (ht.putM _ _).jump _
  | vzm reg addr | v1m reg addr | op36 reg addr =>
    exact runHalf_answersInv h fun _ _ ht => branch_keepsInv ht _ _
  | vlm reg addr =>
    refine runHalf_answersInv h fun a t ht => ?_
    split_ifs
    · exact ht
    · exact (ht.putM _ _).jump _
  -- extracodes
  | ex50 reg addr | ex51 reg addr | ex52 reg addr | ex53 reg addr | ex54 reg addr | ex55 reg addr | ex56 reg addr
  | ex57 reg addr | ex60 reg addr | ex61 reg addr | ex62 reg addr | ex63 reg addr | ex64 reg addr | ex65 reg addr
  | ex66 reg addr | ex67 reg addr | ex70 reg addr | ex71 reg addr | ex72 reg addr | ex73 reg addr | ex74 reg addr
  | ex75 reg addr | ex76 reg addr | ex77 reg addr | ex20 reg addr | ex21 reg addr =>
    exact extracode_answersInv h

/-! ### The whole cycle -/

theorem fetchWord_keepsInv {s : State} (h : s.Inv) (a : Addr) : (fetchWord a s).KeepsInv := by
  rw [fetchWord_eq h]
  split_ifs
  · exact h
  · exact h
  · exact h
  · exact h.prefetched _
  · exact h.prefetched _

theorem fetchHalf_keepsInv {s : State} (h : s.Inv) : (fetchHalf s).KeepsInv :=
  (fetchWord_keepsInv h _).andThen fun _ _ ht => ht

theorem step_answersInv {s : State} (h : s.Inv) : AnswersInv (step s) := by
  unfold step
  split_ifs
  · exact ⟨s, rfl, h⟩
  · exact ⟨_, rfl, h.stopWith _⟩
  · have hf := fetchHalf_keepsInv h.beginCycle
    cases hr : fetchHalf s.beginCycle with
    | ok w t => rw [hr] at hf; exact exec_answersInv _ hf
    | raise c t => rw [hr] at hf; exact ⟨_, rfl, hf.takeCause c⟩
    | stuck x => rw [hr] at hf; exact hf.elim

/-- Settles O14: a cycle is its top, a fetch and one half-instruction, and each keeps the invariant. -/
theorem stepKeepsInvariant : Obligations.StepKeepsInvariant := fun _ _ h ht => (step_answersInv h).inv ht

end Sys2Proof.Machine

/-!
PROOFS of the family of memory: the fetch and the prefetch cache, the checks, the load, the store with its frame and what
is read after it, the sweep, the tournament tables, the page registers. Each operation gets one equation for each of its
ways; the statements are assembled from these.
-/
namespace Sys2Proof.Machine

/-! ### Progress of the cycle -/

theorem AnswersInv.exists_next {r : Answer} (h : AnswersInv r) : ∃ t, r = .next t := by
  obtain ⟨t, ht, -⟩ := h
  exact ⟨t, ht⟩

/-- Settles O16: what answers a state that meets the invariant answers a state. -/
theorem stepAlwaysAnswers : Obligations.StepAlwaysAnswers :=
  ⟨fun _ h => (step_answersInv h).exists_next, fun i _ h => (exec_answersInv i h).exists_next⟩

/-! ### Fetch -/

/-- A fetch that raises changes at most the prefetch cache. -/
theorem fetchWord_raise {s t : State} {a : Addr} {c : Cause} (h : s.Inv) (hw : fetchWord a s = .raise c t) :
    ∃ p, t = { s with prefetch := p } := by
  rw [fetchWord_eq h] at hw
  split_ifs at hw <;> cases hw
  · exact ⟨_, rfl⟩
  · exact ⟨_, rfl⟩
  · exact ⟨_, rfl⟩
  · exact ⟨_, rfl⟩

/-- A cycle whose fetch raises goes to the fault handler (R310). -/
theorem step_of_fetchWord_raise {s t : State} {c : Cause} (hrun : s.stopped = none) (hbreak : s.atBreakpoint = false)
    (hw : fetchWord s.beginCycle.pc s.beginCycle = .raise c t) : step s = .next (t.takeCause c) := by
  simp only [step, fetchHalf, hrun, hbreak, hw, Res.andThen, Option.isSome_none, Bool.false_eq_true, if_false]

/-- Settles O5: the first clause is the equation of the fetch, the second its frame. -/
theorem fetchOutcomes : Obligations.FetchOutcomes := by
  refine ⟨fun s a h => fetchWord_eq h a, fun s t c h hrun hbreak hw => ⟨step_of_fetchWord_raise hrun hbreak hw, ?_⟩⟩
  obtain ⟨p, rfl⟩ := fetchWord_raise h.beginCycle hw
  exact ⟨rfl, rfl⟩

/-! ### The prefetch primitive -/

theorem codeAt_hit {s : State} {fv : Variant} {k : Fin 4} (hc : s.cfg.cacheEnable = true)
    (hk : s.prefetch.search fv = some k) : s.codeAt fv = s.prefetch.brs[k] := by
  simp only [State.codeAt, hc, hk, if_true]

theorem codeAt_miss {s : State} {fv : Variant} (hm : s.cfg.cacheEnable = false ∨ s.prefetch.search fv = none) :
    s.codeAt fv = s.codeWord (s.phys fv) := by
  unfold State.codeAt
  rcases hm with hc | hs
  · rw [hc]; rfl
  · rw [hs, ite_self]

theorem prefetched_hit {s : State} {fv : Variant} {k : Fin 4} (hc : s.cfg.cacheEnable = true)
    (hk : s.prefetch.search fv = some k) :
    s.prefetched fv = { s.prefetch with lru := Recency.setWins Recency.row4 4 s.prefetch.lru k } := by
  simp only [State.prefetched, hc, hk, if_true]

theorem prefetched_miss {s : State} {fv : Variant} {k : Fin 4} (hc : s.cfg.cacheEnable = true)
    (hs : s.prefetch.search fv = none) (hk : Recency.victim4 s.prefetch.lru = some k) :
    s.prefetched fv =
      { bas := s.prefetch.bas.set k fv
        brs := s.prefetch.brs.set k (s.codeWord (s.phys fv))
        lru := Recency.setWins Recency.row4 4 s.prefetch.lru k } := by
  simp only [State.prefetched, hc, hs, hk, if_true]

theorem prefetched_disabled {s : State} {fv : Variant} (hc : s.cfg.cacheEnable = false) :
    s.prefetched fv = { s.prefetch with
      brs := s.prefetch.brs.set (fv.extractLsb' 0 2).toNat (s.codeWord (s.phys fv)) (fv.extractLsb' 0 2).isLt } := by
  simp only [State.prefetched, hc, Bool.false_eq_true, if_false]

/-- Probing a variant that is in the prefetch cache has no effect (R75). -/
theorem probe_hit {s : State} {fv : Variant} {k : Fin 4} (hk : s.prefetch.search fv = some k) : probe fv s = .ok () s := by
  unfold probe prefetch
  split_ifs
  · simp only [hk, Res.andThen, Prefetch.promote, Bool.false_eq_true, if_false]
  · rfl

/-- Probing another variant loads its word into the victim slot, which keeps its rank (R75). -/
theorem probe_miss {s : State} {fv : Variant} {k : Fin 4} (h : s.Inv) (hc : s.cfg.cacheEnable = true)
    (hs : s.prefetch.search fv = none) (hk : Recency.victim4 s.prefetch.lru = some k) :
    probe fv s = .ok () { s with prefetch := { s.prefetch with
      bas := s.prefetch.bas.set k fv, brs := s.prefetch.brs.set k (s.codeWord (s.phys fv)) } } := by
  simp only [probe, prefetch, hc, hs, hk, h.phys_lt fv, Res.andThen, Prefetch.promote, if_true, Bool.false_eq_true,
    if_false]

theorem probe_disabled {s : State} {fv : Variant} (hc : s.cfg.cacheEnable = false) : probe fv s = .ok () s := by
  simp only [probe, hc, Bool.false_eq_true, if_false]

/-- Settles O6: `prefetch_eq` with what is found and what the cache becomes in each case, and the three probes. -/
theorem prefetchRule : Obligations.PrefetchRule := by
  intro s fv h w c
  refine ⟨fun hc k hk => ⟨?_, probe_hit hk⟩, fun hc hs k hk => ⟨?_, probe_miss h hc hs hk⟩,
    fun hc => ⟨?_, probe_disabled hc⟩⟩
  · rw [prefetch_eq h, codeAt_hit hc hk, prefetched_hit hc hk]
  · rw [prefetch_eq h, codeAt_miss (.inr hs), prefetched_miss hc hs hk]
    rfl
  · rw [prefetch_eq h, codeAt_miss (.inl hc), prefetched_disabled hc]
    rfl

/-! ### The checks of a data access -/

theorem pageOf_toNat (a : Addr) : (pageOf a).toNat = a.toNat / 1024 := by
  have ha := a.isLt
  rw [pageOf, BitVec.extractLsb'_toNat, Nat.shiftRight_eq_div_pow]
  omega

/-- The protection check (R59): the page is closed and neither exemption holds. -/
theorem isClosed_iff (s : State) (a : Addr) :
    s.isClosed a = true ↔
      ¬ (s.protDisable = true ∨ (s.sup = true ∧ s.mmapDisable = true ∧ a.toNat < 8)) ∧
        s.pages.rz.getLsbD (a.toNat / 1024) = true := by
  unfold State.isClosed
  rw [pageOf_toNat]
  rw [Bool.and_eq_true, Bool.not_eq_true', ← Bool.not_eq_true]
  simp only [Bool.or_eq_true, Bool.and_eq_true, decide_eq_true_eq, and_assoc]

/-- Settles O21: the protection check is `isClosed_iff`; the watches are tested in the order of R314. -/
theorem dataChecks : Obligations.DataChecks := by
  intro s store a
  simp only [State.dataFault, isClosed_iff, Bool.and_eq_true, beq_iff_eq, List.contains_iff_mem, Bool.not_eq_true']
  rfl

/-! ### Load -/

/-- Settles O22: the ways of `memRead_eq`. -/
theorem loadRule : Obligations.LoadRule := by
  intro s a h ha p
  have load := memRead_eq h a
  rw [if_neg ha] at load
  refine ⟨fun c hf => by rw [load, hf], fun hf => ⟨fun k hc hk => ?_, fun hm => ?_⟩⟩
  · simp only [hf, hc, hk, if_true] at load
    exact ⟨fun htag => load.trans (if_pos htag), fun htag => load.trans (if_neg htag)⟩
  · have hmiss : (if s.cfg.cacheEnable = true then s.cache.search (s.dataVariant a) else none) = none := by
      rcases hm with hc | hs
      · rw [hc]; rfl
      · rw [hs, ite_self]
    simp only [hf, hmiss] at load
    refine ⟨fun hp => load.trans (if_pos hp), fun hp htag => ?_, fun hp htag => ?_⟩
    · exact (load.trans (if_neg (Nat.not_lt.2 hp))).trans (if_pos htag)
    · exact (load.trans (if_neg (Nat.not_lt.2 hp))).trans (if_neg htag)

/-! ### Address 0 -/

/-- Settles O20: in each of the three operations the test for address 0 comes first (R53). -/
theorem addressZero : Obligations.AddressZero := fun _ _ => ⟨if_pos rfl, if_pos rfl, if_pos rfl⟩

/-! ### The ways of a store -/

theorem memWrite_of_dataFault {s : State} {a : Addr} {v : Word} {c : Cause} (h : s.Inv) (ha : a ≠ 0)
    (hf : s.dataFault true a = some c) : memWrite a v s = .raise c s := by
  rw [memWrite_eq h, if_neg ha, hf]

theorem memWrite_of_noFault {s : State} {a : Addr} (v : Word) (h : s.Inv) (ha : a ≠ 0)
    (hf : s.dataFault true a = none) : memWrite a v s = .ok () (s.stored a v) := by
  rw [memWrite_eq h, if_neg ha, hf]

/-- A store completes by discarding the word at address 0 or by `stored` (R53, R64). -/
theorem memWrite_ok {s t : State} {a : Addr} {v : Word} (h : s.Inv) (hw : memWrite a v s = .ok () t) :
    (a = 0 ∧ t = s) ∨ (a ≠ 0 ∧ t = s.stored a v) := by
  rw [memWrite_eq h] at hw
  split_ifs at hw with ha
  · cases hw
    exact .inl ⟨ha, rfl⟩
  · cases hf : s.dataFault true a with
    | some c => rw [hf] at hw; cases hw
    | none => rw [hf] at hw; cases hw; exact .inr ⟨ha, rfl⟩

section ways
variable {s : State} {a : Addr} {v : Word} {k : Fin 8}

theorem stored_bypass_console (hc : s.cfg.cacheEnable = false) (hcon : isConsoleVariant (s.dataVariant a) = true) :
    s.stored a v = s := by
  simp only [State.stored, hc, hcon, if_true]

/-- In bypass mode the word goes through the drawn slot to memory (R63). -/
theorem stored_bypass (hc : s.cfg.cacheEnable = false) (hcon : isConsoleVariant (s.dataVariant a) = false) :
    s.stored a v = (({ s with draws := s.draws + 1 } : State).fillSlot (Config.bypassSlot s.draws) (s.dataVariant a)
      ⟨s.storeTag, v⟩).writtenBack (Config.bypassSlot s.draws) := by
  simp only [State.stored, hc, hcon, if_true, Bool.false_eq_true, if_false]

/-- A sweep step writes one slot back and counts (R65, R67). -/
theorem stored_sweep (hc : s.cfg.cacheEnable = true) (hcon : isConsoleVariant (s.dataVariant a) = true)
    (hn : s.cache.flush.toNat < 8) (hk : s.sweepTakes = some k) :
    s.stored a v = ((s.writtenBack k).touch k).advanceSweep := by
  simp only [State.stored, hc, hcon, hn, hk, if_true, Bool.true_eq_false, if_false]

theorem stored_sweep_done (hc : s.cfg.cacheEnable = true) (hcon : isConsoleVariant (s.dataVariant a) = true)
    (hn : 8 ≤ s.cache.flush.toNat) : s.stored a v = s := by
  simp only [State.stored, hc, hcon, Nat.not_lt.2 hn, if_true, Bool.true_eq_false, if_false]
  cases s.sweepTakes <;> rfl

/-- A normal store whose variant is in the cache overwrites its slot (R66). -/
theorem stored_hit (hc : s.cfg.cacheEnable = true) (hcon : isConsoleVariant (s.dataVariant a) = false)
    (hk : s.cache.search (s.dataVariant a) = some k) :
    s.stored a v = ((s.setFlush 0).fillSlot k (s.dataVariant a) ⟨s.storeTag, v⟩).touch k := by
  simp only [State.stored, hc, hcon, hk, Bool.true_eq_false, Bool.false_eq_true, if_false]

/-- Any other normal store writes the victim back and takes its slot (R66). -/
theorem stored_miss (hc : s.cfg.cacheEnable = true) (hcon : isConsoleVariant (s.dataVariant a) = false)
    (hs : s.cache.search (s.dataVariant a) = none) (hk : Recency.victim8 s.cache.tabst = some k) :
    s.stored a v =
      (((s.setFlush 0).writtenBack k).fillSlot k (s.dataVariant a) ⟨s.storeTag, v⟩).touch k := by
  simp only [State.stored, hc, hcon, hs, hk, Bool.true_eq_false, Bool.false_eq_true, if_false]

end ways

/-- Settles O23: `memWrite_of_noFault` and the equation of each way. -/
theorem storeRule : Obligations.StoreRule := by
  intro s a v h ha av w
  refine ⟨fun c hf => memWrite_of_dataFault h ha hf, fun hf => ?_⟩
  rw [memWrite_of_noFault v h ha hf]
  refine ⟨fun hc hcon => ?_, fun hc hcon => ?_, fun hc hcon hn => ?_, fun hc hcon hn k hk => ?_,
    fun hc hcon k hk => ?_, fun hc hcon hs k hk => ?_⟩
  · rw [stored_bypass_console hc hcon]
  · rw [stored_bypass hc hcon]
    rfl
  · rw [stored_sweep_done hc hcon hn]
  · rw [stored_sweep hc hcon hn hk]
  · rw [stored_hit hc hcon hk]
    rfl
  · rw [stored_miss hc hcon hs hk]
    rfl

/-! ### The memory a store reaches -/

/-- Updates outside the page table and a slot's address do not move where the slot is written back. -/
theorem State.writeBackAddr_congr {s t : State} {k : Fin 8} (hpages : t.pages = s.pages)
    (hslot : t.cache.baz[k] = s.cache.baz[k]) : t.writeBackAddr k = s.writeBackAddr k := by
  unfold State.writeBackAddr
  rw [hslot, State.phys_congr hpages]

theorem State.writeBackAddr_of_slot {s : State} {k : Fin 8} {av : Variant} (hav : av ≠ 0)
    (hk : s.cache.baz[k] = av) : s.writeBackAddr k = if s.phys av < 8 then none else some (s.phys av) := by
  simp only [State.writeBackAddr, hk, hav, false_or]

/-- The word written back is the slot's (R62). -/
theorem State.read_writtenBack {s : State} {k : Fin 8} {p : Nat} (hm : Memory.wf s.mem = true)
    (hp : s.writeBackAddr k = some p) : Memory.read (s.writtenBack k).mem p = s.cache.brz[k] := by
  rw [State.writtenBack_mem, hp]
  exact Memory.read_write_same _ _ _ hm

theorem State.read_writtenBack_other {s : State} {k : Fin 8} {p : Nat} (hm : Memory.wf s.mem = true)
    (hp : s.writeBackAddr k ≠ some p) : Memory.read (s.writtenBack k).mem p = Memory.read s.mem p := by
  rw [State.writtenBack_mem]
  cases hq : s.writeBackAddr k with
  | none => rfl
  | some q => exact Memory.read_write_other _ _ _ _ (fun e => hp (e ▸ hq)) hm

theorem State.fillSlot_baz_same (s : State) (k : Fin 8) (av : Variant) (w : TWord) :
    (s.fillSlot k av w).cache.baz[k] = av := by
  rw [State.fillSlot_cache, getElem_set_fin, if_pos rfl]

@[simp] theorem State.advanceSweep_mem (s : State) : s.advanceSweep.mem = s.mem := by
  unfold State.advanceSweep
  dsimp only
  split_ifs <;> rfl

section reaches
variable {s : State} {a : Addr}

theorem storeReaches_bypass (ha : a ≠ 0) (hc : s.cfg.cacheEnable = false)
    (hcon : isConsoleVariant (s.dataVariant a) = false) :
    s.storeReaches a = if s.phys (s.dataVariant a) < 8 then none else some (s.phys (s.dataVariant a)) := by
  simp only [State.storeReaches, ha, hc, hcon, if_true, if_false, Bool.false_eq_true, false_or]

theorem storeReaches_sweep (ha : a ≠ 0) (hc : s.cfg.cacheEnable = true)
    (hcon : isConsoleVariant (s.dataVariant a) = true) (hn : s.cache.flush.toNat < 8) :
    s.storeReaches a = s.sweepTakes.bind s.writeBackAddr := by
  simp only [State.storeReaches, ha, hc, hcon, Nat.not_le.2 hn, if_true, if_false, Bool.true_eq_false]

theorem storeReaches_miss (ha : a ≠ 0) (hc : s.cfg.cacheEnable = true)
    (hcon : isConsoleVariant (s.dataVariant a) = false) (hs : s.cache.search (s.dataVariant a) = none) :
    s.storeReaches a = (Recency.victim8 s.cache.tabst).bind s.writeBackAddr := by
  simp only [State.storeReaches, ha, hc, hcon, hs, if_false, Bool.true_eq_false, Bool.false_eq_true]

end reaches

theorem State.Inv.exists_sweepTakes {s : State} (h : s.Inv) : ∃ k, s.sweepTakes = some k := by
  unfold State.sweepTakes
  cases s.cfg.sweep with
  | byAge => exact h.exists_victim
  | byIndex => exact ⟨_, rfl⟩

/-- A store leaves every word of memory but the one `storeReaches` computes. -/
theorem State.Inv.read_stored_other {s : State} (h : s.Inv) {a : Addr} (v : Word) (ha : a ≠ 0) {p : Nat}
    (hp : s.storeReaches a ≠ some p) : Memory.read (s.stored a v).mem p = Memory.read s.mem p := by
  cases hc : s.cfg.cacheEnable <;> cases hcon : isConsoleVariant (s.dataVariant a)
  case false.true => rw [stored_bypass_console hc hcon]
  case false.false =>
    rw [storeReaches_bypass ha hc hcon] at hp
    rw [stored_bypass hc hcon]
    refine State.read_writtenBack_other h.memWf ?_
    rw [State.writeBackAddr_of_slot (s.dataVariant_ne_zero ha) (State.fillSlot_baz_same _ _ _ _)]
    exact hp
  case true.true =>
    by_cases hn : s.cache.flush.toNat < 8
    · obtain ⟨k, hk⟩ := h.exists_sweepTakes
      rw [storeReaches_sweep ha hc hcon hn, hk] at hp
      rw [stored_sweep hc hcon hn hk, State.advanceSweep_mem]
      exact State.read_writtenBack_other h.memWf hp
    · rw [stored_sweep_done hc hcon (Nat.not_lt.1 hn)]
  case true.false =>
    cases hs : s.cache.search (s.dataVariant a) with
    | some k =>
      rw [stored_hit hc hcon hs]
      rfl
    | none =>
      obtain ⟨k, hk⟩ := h.exists_victim
      rw [storeReaches_miss ha hc hcon hs, hk] at hp
      rw [stored_miss hc hcon hs hk]
      exact State.read_writtenBack_other (s := s.setFlush 0) h.memWf hp

/-- Settles O24: the word of `read_stored_other`, and `stored_frame`. -/
theorem storeFrame : Obligations.StoreFrame := by
  intro s t a v h hw
  rcases memWrite_ok h hw with ⟨-, rfl⟩ | ⟨ha, rfl⟩
  · exact ⟨fun _ _ => rfl, rfl⟩
  · obtain ⟨m, c, d, hframe⟩ := s.stored_frame a v
    exact ⟨fun p hp => h.read_stored_other v ha hp, by rw [hframe]⟩

/-! ### What the program sees after a store -/

theorem State.Inv.search_of_slot {s : State} (h : s.Inv) {av : Variant} {k : Fin 8} (hav : av ≠ 0)
    (hk : s.cache.baz[k] = av) : s.cache.search av = some k := by
  cases hs : s.cache.search av with
  | none => exact absurd hk (Cache.search_none hs k)
  | some j =>
    have hj := Cache.search_some hs
    by_contra hne
    have hjk : j ≠ k := fun e => hne (congrArg some e)
    exact hav (hj ▸ h.slotsDistinct j k hjk (hj.trans hk.symm))

theorem Cache.search_of_absent {c : Cache} {av : Variant} (hno : ∀ k : Fin 8, c.baz[k] ≠ av) : c.search av = none := by
  cases hs : c.search av with
  | none => rfl
  | some k => exact absurd (Cache.search_some hs) (hno k)

theorem State.Inv.seen_of_slot {s : State} (h : s.Inv) {av : Variant} {k : Fin 8} (hav : av ≠ 0)
    (hk : s.cache.baz[k] = av) : s.seen av = s.cache.brz[k].data := by
  rw [State.seen, h.search_of_slot hav hk]

theorem State.seen_of_absent {s : State} {av : Variant} (hno : ∀ k : Fin 8, s.cache.baz[k] ≠ av) :
    s.seen av = if s.phys av < 8 then s.consoleAt (s.phys av) else (Memory.read s.mem (s.phys av)).data := by
  rw [State.seen, Cache.search_of_absent hno]

/-- What an ordinary store of the word `w` at the variant `av` leaves: slot `k` holds it, every other slot is as it was,
and the word of another variant that slot `k` held before is in memory. -/
structure StoredAt (s : State) (av : Variant) (w : TWord) (t : State) (k : Fin 8) : Prop where
  inv : t.Inv
  addresses : t.cache.baz = s.cache.baz.set k av
  words : t.cache.brz = s.cache.brz.set k w
  evicted : s.cache.baz[k] ≠ av → ∀ p, s.writeBackAddr k = some p → Memory.read t.mem p = s.cache.brz[k]

namespace StoredAt
variable {s t : State} {av bv : Variant} {w : TWord} {k i : Fin 8}

theorem baz_same (h : StoredAt s av w t k) : t.cache.baz[k] = av := by
  rw [h.addresses, getElem_set_fin, if_pos rfl]

theorem baz_other (h : StoredAt s av w t k) (hi : i ≠ k) : t.cache.baz[i] = s.cache.baz[i] := by
  rw [h.addresses, getElem_set_fin, if_neg hi.symm]

theorem brz_same (h : StoredAt s av w t k) : t.cache.brz[k] = w := by
  rw [h.words, getElem_set_fin, if_pos rfl]

theorem brz_other (h : StoredAt s av w t k) (hi : i ≠ k) : t.cache.brz[i] = s.cache.brz[i] := by
  rw [h.words, getElem_set_fin, if_neg hi.symm]

/-- A variant that no other slot held is in no slot after the store of another. -/
theorem absent (h : StoredAt s av w t k) (hne : bv ≠ av) (hno : ∀ i : Fin 8, i ≠ k → s.cache.baz[i] ≠ bv) (i : Fin 8) :
    t.cache.baz[i] ≠ bv := by
  by_cases hi : i = k
  · rw [hi, h.baz_same]
    exact hne.symm
  · rw [h.baz_other hi]
    exact hno i hi

end StoredAt

/-- The normal store has such a slot: the matching one or the victim (R66). -/
theorem State.Inv.exists_storedAt {s : State} (h : s.Inv) {a : Addr} (v : Word)
    (hc : s.cfg.cacheEnable = true) (hcon : isConsoleVariant (s.dataVariant a) = false) :
    ∃ k, StoredAt s (s.dataVariant a) ⟨s.storeTag, v⟩ (s.stored a v) k := by
  cases hs : s.cache.search (s.dataVariant a) with
  | some k =>
    have hst := stored_hit (v := v) hc hcon hs
    exact ⟨k, h.stored a v, by rw [hst]; rfl, by rw [hst]; rfl, fun hne => absurd (Cache.search_some hs) hne⟩
  | none =>
    obtain ⟨k, hk⟩ := h.exists_victim
    have hst := stored_miss (v := v) hc hcon hs hk
    refine ⟨k, h.stored a v, ?_, ?_, fun _ p hp => ?_⟩
    · simp [hst]
    · simp [hst]
    · rw [hst]
      exact State.read_writtenBack (s := s.setFlush 0) h.memWf hp

/-- A store does not move an address. -/
theorem State.phys_stored (s : State) (a : Addr) (v : Word) (av : Variant) : (s.stored a v).phys av = s.phys av := by
  obtain ⟨m, c, d, hframe⟩ := s.stored_frame a v
  exact State.phys_congr (congrArg State.pages hframe) av

theorem State.consoleAt_stored (s : State) (a : Addr) (v : Word) (p : Nat) :
    (s.stored a v).consoleAt p = s.consoleAt p := by
  obtain ⟨m, c, d, hframe⟩ := s.stored_frame a v
  rw [hframe]
  rfl

/-- What is read at a variant that stays out of the cache depends on memory at its own address. -/
theorem State.seen_stored_absent {s : State} {a : Addr} {v : Word} {av : Variant}
    (hs : ∀ k : Fin 8, s.cache.baz[k] ≠ av) (ht : ∀ k : Fin 8, (s.stored a v).cache.baz[k] ≠ av)
    (hm : Memory.read (s.stored a v).mem (s.phys av) = Memory.read s.mem (s.phys av)) :
    (s.stored a v).seen av = s.seen av := by
  rw [State.seen_of_absent ht, State.seen_of_absent hs, State.phys_stored, State.consoleAt_stored, hm]

/-- Settles O25. A variant in another slot keeps its slot; one in the slot that is taken is written back and read from
memory; one in no slot is read from memory before and after. -/
theorem storeThenLoad : Obligations.StoreThenLoad := by
  intro s t a v h ha hc hcon hw
  obtain ⟨rfl, -⟩ | ⟨-, rfl⟩ := memWrite_ok h hw
  · exact absurd rfl ha
  obtain ⟨k, hst⟩ := h.exists_storedAt v hc hcon
  refine ⟨?_, fun av hav hne => ⟨fun hin hp => ?_, fun hs hreach => ?_⟩⟩
  · rw [hst.inv.seen_of_slot (s.dataVariant_ne_zero ha) hst.baz_same, hst.brz_same]
  · obtain ⟨j, hsj⟩ := Option.isSome_iff_exists.1 hin
    have hj := Cache.search_some hsj
    rw [h.seen_of_slot hav hj]
    by_cases hjk : j = k
    · subst hjk
      have hgone := hst.absent hne fun i hi he => hav (hj ▸ h.slotsDistinct j i hi.symm (hj.trans he.symm))
      have haddr : s.writeBackAddr j = some (s.phys av) := by
        rw [State.writeBackAddr_of_slot hav hj, if_neg (Nat.not_lt.2 hp)]
      rw [State.seen_of_absent hgone, State.phys_stored, if_neg (Nat.not_lt.2 hp), hst.evicted (hj ▸ hne) _ haddr]
    · rw [hst.inv.seen_of_slot hav ((hst.baz_other hjk).trans hj), hst.brz_other hjk]
  · have hno := Cache.search_none hs
    exact State.seen_stored_absent hno (hst.absent hne fun i _ => hno i) (h.read_stored_other v ha hreach)

/-! ### A sweep of the whole cache -/

section advanceSweep
variable (s : State)

@[simp] theorem State.advanceSweep_brz : s.advanceSweep.cache.brz = s.cache.brz := by
  unfold State.advanceSweep
  dsimp only
  split_ifs <;> rfl

@[simp] theorem State.advanceSweep_baz : s.advanceSweep.cache.baz = s.cache.baz := by
  unfold State.advanceSweep
  dsimp only
  split_ifs <;> rfl

@[simp] theorem State.advanceSweep_flush : s.advanceSweep.cache.flush = s.cache.flush + 1 := by
  unfold State.advanceSweep
  dsimp only
  split_ifs <;> rfl

/-- The eighth step clears the table, the others leave it (R67). -/
@[simp] theorem State.advanceSweep_tabst :
    s.advanceSweep.cache.tabst = if s.cache.flush + 1 = 8 then 0 else s.cache.tabst := by
  unfold State.advanceSweep
  exact apply_ite (fun t : State => t.cache.tabst) _ _ _

/-- A sweep step changes memory and the cache and nothing else. -/
theorem State.sweepStep_frame (k : Fin 8) :
    ∃ m c, ((s.writtenBack k).touch k).advanceSweep = { s with mem := m, cache := c } := by
  obtain ⟨m, c, hframe⟩ := s.writtenBack_frame k
  rw [hframe]
  unfold State.advanceSweep
  dsimp only
  split_ifs <;> exact ⟨_, _, rfl⟩

end advanceSweep

/-- A sweep from `s` that has taken the slots `taken` has reached `u`: these slots are empty and their words are in
memory, the counter counts them, and the policy prefers every other slot to them. -/
structure Swept (s : State) (taken : Finset (Fin 8)) (u : State) : Prop where
  inv : u.Inv
  frame : ∃ m c, u = { s with mem := m, cache := c }
  words : u.cache.brz = s.cache.brz
  emptied : ∀ k ∈ taken, u.cache.baz[k] = 0
  untaken : ∀ k : Fin 8, k ∉ taken → u.cache.baz[k] = s.cache.baz[k]
  counter : u.cache.flush.toNat = taken.card
  byAge : ∀ i ∈ taken, ∀ j : Fin 8, j ∉ taken → Recency.beats Recency.row8 u.cache.tabst i j = true
  byIndex : s.cfg.sweep = .byIndex → ∀ k ∈ taken, k.val < taken.card
  cleared : taken.card = 8 → u.cache.tabst = 0
  drained : ∀ k ∈ taken, ∀ p, s.writeBackAddr k = some p →
    ∃ j : Fin 8, s.writeBackAddr j = some p ∧ Memory.read u.mem p = s.cache.brz[j]
  kept : ∀ p, (∀ k : Fin 8, s.writeBackAddr k ≠ some p) → Memory.read u.mem p = Memory.read s.mem p

theorem Swept.start {s : State} (h : s.Inv) (hflush : s.cache.flush = 0) : Swept s ∅ s where
  inv := h
  frame := ⟨_, _, rfl⟩
  words := rfl
  emptied := by simp
  untaken := fun _ _ => rfl
  counter := by rw [hflush]; rfl
  byAge := by simp
  byIndex := by simp
  cleared := by simp
  drained := by simp
  kept := fun _ _ => rfl

namespace Swept
variable {s u : State} {taken : Finset (Fin 8)} {k : Fin 8}

theorem cfg_eq (h : Swept s taken u) : u.cfg = s.cfg := by
  obtain ⟨m, c, rfl⟩ := h.frame
  rfl

theorem dataVariant_eq (h : Swept s taken u) (a : Addr) : u.dataVariant a = s.dataVariant a := by
  obtain ⟨m, c, rfl⟩ := h.frame
  rfl

theorem dataFault_eq (h : Swept s taken u) (store : Bool) (a : Addr) : u.dataFault store a = s.dataFault store a := by
  obtain ⟨m, c, rfl⟩ := h.frame
  rfl

theorem pages_eq (h : Swept s taken u) : u.pages = s.pages := by
  obtain ⟨m, c, rfl⟩ := h.frame
  rfl

/-- While the counter is below eight some slot is not taken. -/
theorem exists_untaken (hcard : taken.card < 8) : ∃ j, j ∉ taken := by
  by_contra hall
  push Not at hall
  rw [Finset.eq_univ_iff_forall.2 hall, Finset.card_univ, Fintype.card_fin] at hcard
  exact lt_irrefl 8 hcard

theorem mem_of_card (hcard : taken.card = 8) (k : Fin 8) : k ∈ taken := by
  rw [(Finset.card_eq_iff_eq_univ taken).1 (hcard.trans (Fintype.card_fin 8).symm)]
  exact Finset.mem_univ k

/-- The victim is a slot the sweep has not taken: a taken one beats what is left. -/
theorem victim_notMem (h : Swept s taken u) (hcard : taken.card < 8) (hk : Recency.victim8 u.cache.tabst = some k) :
    k ∉ taken := by
  intro hmem
  obtain ⟨j, hj⟩ := exists_untaken hcard
  have hne : j ≠ k := fun e => hj (e ▸ hmem)
  have hloses := (Recency.losesToAll_iff _ _ _ _).1 ((Recency.victim8_iff _ _).1 hk) j j.isLt (Fin.val_ne_of_ne hne)
  rw [Recency.beats_not _ _ _ _ (Fin.val_ne_of_ne hne.symm), h.byAge k hmem j hj] at hloses
  cases hloses

/-- Under either policy the sweep goes on with a slot it has not taken (R67). -/
theorem exists_next (h : Swept s taken u) (hcard : taken.card < 8) :
    ∃ k, u.sweepTakes = some k ∧ k ∉ taken ∧ (s.cfg.sweep = .byIndex → k.val = taken.card) := by
  unfold State.sweepTakes
  rw [h.cfg_eq]
  cases hpol : s.cfg.sweep with
  | byAge =>
    obtain ⟨k, hk⟩ := h.inv.exists_victim
    exact ⟨k, hk, h.victim_notMem hcard hk, fun e => by cases e⟩
  | byIndex =>
    have hval : u.cache.flush.toNat % 8 = taken.card := by rw [h.counter, Nat.mod_eq_of_lt hcard]
    exact ⟨_, rfl, fun hmem => (h.byIndex hpol _ hmem).ne hval, fun _ => hval⟩

/-- The slot a sweep step takes is promoted over those left, as the slots taken before it were (R58, R67). -/
theorem beats_next (h : Swept s taken u) (hk : k ∉ taken) {i j : Fin 8} (hi : i ∈ insert k taken) (hj : j ∉ insert k taken) :
    Recency.beats Recency.row8 ((u.writtenBack k).touch k).advanceSweep.cache.tabst i j = true := by
  have hij : i ≠ j := fun e => hj (e ▸ hi)
  have hlast : u.cache.flush + 1 ≠ 8 := by
    intro hlast
    have hnum := h.counter
    have hall : (insert k taken).card = 8 := by rw [Finset.card_insert_of_notMem hk]; bv_omega
    exact hj (mem_of_card hall j)
  simp only [State.advanceSweep_tabst, State.touch_cache, State.writtenBack_cache, if_neg hlast]
  obtain ⟨hjk, hj⟩ := not_or.1 (mt Finset.mem_insert.2 hj)
  rw [Recency.beats_setWins8 _ _ _ _ hij, if_neg hjk]
  split_ifs with hik
  · rfl
  · exact h.byAge i (Finset.mem_of_mem_insert_of_ne hi hik) j hj

/-- One sweep step takes one more slot. -/
theorem next (h : Swept s taken u) (hk : k ∉ taken) (hcard : taken.card < 8)
    (hindex : s.cfg.sweep = .byIndex → k.val = taken.card) :
    Swept s (insert k taken) ((u.writtenBack k).touch k).advanceSweep := by
  have hcard' : (insert k taken).card = taken.card + 1 := Finset.card_insert_of_notMem hk
  have hflush : u.cache.flush.toNat < 8 := by rw [h.counter]; exact hcard
  have haddr : u.writeBackAddr k = s.writeBackAddr k := State.writeBackAddr_congr h.pages_eq (h.untaken k hk)
  have hother : ∀ p, s.writeBackAddr k ≠ some p →
      Memory.read ((u.writtenBack k).touch k).advanceSweep.mem p = Memory.read u.mem p := by
    intro p hp
    rw [State.advanceSweep_mem, State.touch_mem, State.read_writtenBack_other h.inv.memWf (haddr ▸ hp)]
  exact {
    inv := ((h.inv.writtenBack k).touch k).advanceSweep (by simpa using hflush)
    frame := by
      obtain ⟨m, c, hstep⟩ := u.sweepStep_frame k
      obtain ⟨m', c', rfl⟩ := h.frame
      exact ⟨m, c, hstep⟩
    words := by simpa using h.words
    emptied := by
      intro i hi
      simp only [State.advanceSweep_baz, State.touch_cache, State.writtenBack_cache, getElem_set_fin]
      split_ifs with hki
      · rfl
      · exact h.emptied i (Finset.mem_of_mem_insert_of_ne hi (Ne.symm hki))
    untaken := by
      intro i hi
      obtain ⟨hik, hi⟩ := not_or.1 (mt Finset.mem_insert.2 hi)
      simp only [State.advanceSweep_baz, State.touch_cache, State.writtenBack_cache, getElem_set_fin]
      rw [if_neg (Ne.symm hik), h.untaken i hi]
    counter := by
      have hnum := h.counter
      simp only [State.advanceSweep_flush, State.touch_cache, State.writtenBack_cache]
      bv_omega
    byAge := fun i hi j hj => h.beats_next hk hi hj
    byIndex := by
      intro hpol i hi
      rw [hcard']
      rcases Finset.mem_insert.1 hi with rfl | hi
      · exact Nat.lt_succ_of_le (hindex hpol).le
      · exact Nat.lt_succ_of_lt (h.byIndex hpol i hi)
    cleared := by
      intro hall
      have hnum := h.counter
      rw [State.advanceSweep_tabst, if_pos]
      simp only [State.touch_cache, State.writtenBack_cache]
      bv_omega
    drained := by
      intro i hi p hp
      by_cases hkp : s.writeBackAddr k = some p
      · refine ⟨k, hkp, ?_⟩
        rw [State.advanceSweep_mem, State.touch_mem, State.read_writtenBack h.inv.memWf (haddr.trans hkp), h.words]
      · rcases Finset.mem_insert.1 hi with rfl | hi
        · exact absurd hp hkp
        · rw [hother p hkp]
          exact h.drained i hi p hp
    kept := fun p hp => (hother p (hp k)).trans (h.kept p hp) }

/-- A store to a trigger address is such a step wherever the sweep stands. -/
theorem store (h : Swept s taken u) {a : Addr} (v : Word) (hcard : taken.card < 8) (ha : a ≠ 0)
    (hc : s.cfg.cacheEnable = true) (hcon : isConsoleVariant (s.dataVariant a) = true)
    (hf : s.dataFault true a = none) :
    ∃ k t, memWrite a v u = .ok () t ∧ k ∉ taken ∧ Swept s (insert k taken) t := by
  obtain ⟨k, hsweep, hk, hindex⟩ := h.exists_next hcard
  refine ⟨k, _, ?_, hk, h.next hk hcard hindex⟩
  have hflush : u.cache.flush.toNat < 8 := by rw [h.counter]; exact hcard
  rw [← h.cfg_eq] at hc
  rw [← h.dataVariant_eq] at hcon
  rw [← h.dataFault_eq] at hf
  rw [memWrite_of_noFault v h.inv ha hf, stored_sweep hc hcon hflush hsweep]

end Swept

/-- A store of `v` at `a` after what `r` has done. -/
def thenStore (a : Addr) (v : Word) (r : Res Unit) : Res Unit := r.andThen fun _ u => memWrite a v u

/-- Up to eight stores to a trigger address take as many slots. -/
theorem iterate_thenStore {s : State} {a : Addr} (v : Word) (h : s.Inv) (ha : a ≠ 0) (hc : s.cfg.cacheEnable = true)
    (hflush : s.cache.flush = 0) (hcon : isConsoleVariant (s.dataVariant a) = true)
    (hf : s.dataFault true a = none) :
    ∀ n ≤ 8, ∃ taken t, (thenStore a v)^[n] (.ok () s) = .ok () t ∧ taken.card = n ∧ Swept s taken t := by
  intro n
  induction n with
  | zero => exact fun _ => ⟨∅, s, rfl, rfl, Swept.start h hflush⟩
  | succ n ih =>
    intro hn
    obtain ⟨taken, u, hu, hcard, hswept⟩ := ih (by omega)
    obtain ⟨k, t, ht, hk, hnext⟩ := hswept.store v (by omega) ha hc hcon hf
    refine ⟨insert k taken, t, ?_, by rw [Finset.card_insert_of_notMem hk, hcard], hnext⟩
    rw [Function.iterate_succ_apply', hu]
    exact ht

/-- Settles O26: after eight stores every slot is taken, and `Swept` says what that means. -/
theorem sweepDrainsTheCache : Obligations.SweepDrainsTheCache := by
  intro s a v h ha hc hflush hcon hf
  obtain ⟨taken, t, ht, hcard, hswept⟩ := iterate_thenStore v h ha hc hflush hcon hf 8 le_rfl
  have hall := Swept.mem_of_card hcard
  refine ⟨t, ht, fun k => hswept.emptied k (hall k), hswept.cleared hcard, ?_,
    fun k p hp => hswept.drained k (hall k) p hp, hswept.kept⟩
  exact BitVec.eq_of_toNat_eq (hswept.counter.trans hcard)

/-! ### The tournament tables -/

/-- Settles O28: an order has a loser and only one, and `setWins` is `beats_setWins8`, `beats_setWins4`. -/
theorem recencyOrder : Obligations.RecencyOrder := by
  refine ⟨fun t ht => ⟨?_, fun k => ⟨Recency.isOrder_setWins8 t k ht, Recency.beats_setWins8 t k⟩⟩,
    fun t ht => ⟨?_, fun k => ⟨Recency.isOrder_setWins4 t k ht, Recency.beats_setWins4 t k⟩⟩,
    Recency.isOrder_zero _ _ _, by decide, Recency.isOrder_zero _ _ _, by decide⟩
  · obtain ⟨k, hk⟩ := Recency.exists_victim8 t ht
    have hlose := (Recency.victim8_iff t k).1 hk
    exact ⟨k, hk, fun j => ⟨fun hj => Recency.loser_unique _ _ t j k hj hlose, fun hj => hj ▸ hlose⟩⟩
  · obtain ⟨k, hk⟩ := Recency.exists_victim4 t ht
    have hlose := (Recency.victim4_iff t k).1 hk
    exact ⟨k, hk, fun j => ⟨fun hj => Recency.loser_unique _ _ t j k hj hlose, fun hj => hj ▸ hlose⟩⟩

/-! ### Page registers -/

theorem toNat_append_eq {m n : Nat} (x : BitVec m) (y : BitVec n) : (x ++ y).toNat = 2 ^ n * x.toNat + y.toNat := by
  rw [BitVec.toNat_append, Nat.shiftLeft_eq, Nat.mul_comm, Nat.two_pow_add_eq_or_of_lt y.isLt]

/-- A frame field as a number: five low bits and five spread ones (R82). -/
theorem frameField_eq_ofNat (v : Word) (j : Nat) :
    frameField v j = BitVec.ofNat 12 ((v.extractLsb' (5 * j) 5).toNat + 2 ^ 5 * (v.getLsbD (28 + j)).toNat
      + 2 ^ 6 * (v.getLsbD (32 + j)).toNat + 2 ^ 7 * (v.getLsbD (36 + j)).toNat
      + 2 ^ 8 * (v.getLsbD (40 + j)).toNat + 2 ^ 9 * (v.getLsbD (44 + j)).toNat) := by
  have hlt := (frameField v j).isLt
  apply BitVec.eq_of_toNat_eq
  rw [BitVec.toNat_ofNat, ← Nat.mod_eq_of_lt hlt]
  simp only [frameField, toNat_append_eq, BitVec.toNat_ofBool, BitVec.toNat_ofNat]
  omega

/-- Settles O27: `setPageRegister_tlb`, `setPageRegister_rp`, and the frame field as a number. -/
theorem pageRegisterWrite : Obligations.PageRegisterWrite := by
  intro s i v t
  have hi := i.isLt
  refine ⟨fun j => ?_, fun p hp => ?_, fun n hn => State.setPageRegister_rp_other s i n v hn, rfl, rfl⟩
  · have hj := j.isLt
    intro f
    have hf : frameField v j.val = BitVec.ofNat 12 f := frameField_eq_ofNat v j
    rw [← hf]
    refine ⟨?_, State.setPageRegister_rp s i i v j hj rfl⟩
    rw [State.setPageRegister_tlb, if_pos (by omega)]
    congr 2
    omega
  · exact (State.setPageRegister_tlb s i v p p.isLt).trans (if_neg hp)

end Sys2Proof.Machine

/-!
PROOFS of the family of the encoding. A half-instruction is the concatenation of its fields (R102, R103), so each format
gets its number, what each field reads back, and what the encoder makes of a pattern's own fields; the map of the 80 rows
is walked once in each direction.
-/
namespace Sys2Proof

/-! ### The 80 rows (R106) -/

/-- The row of a short opcode has that opcode and keeps the two fields. -/
theorem fields_decodeShort (op : BitVec 6) (reg : BitVec 4) (addr : Addr) :
    (decodeShort op reg addr).fields = (op.toNat, reg, addr) := by
  obtain ⟨n, hn⟩ := op
  interval_cases n <;> rfl

/-- The row of a long opcode has that opcode and keeps the two fields. -/
theorem fields_decodeLong (op4 : BitVec 4) (reg : BitVec 4) (addr : Addr) :
    (decodeLong op4 reg addr).fields = (0o200 + 8 * op4.toNat, reg, addr) := by
  obtain ⟨n, hn⟩ := op4
  interval_cases n <;> rfl

/-- An instruction is the row of its own opcode, in the format of that opcode. -/
theorem Instr.eq_row (i : Instr) :
    (if i.isLong then decodeLong (BitVec.ofNat 4 ((i.opcode - 0o200) / 8)) i.reg i.addr
      else decodeShort (BitVec.ofNat 6 i.opcode) i.reg i.addr) = i := by
  cases i <;> simp only [Instr.isLong, Instr.opcode, Instr.fields] <;> rfl

/-- Every instruction is a row of the short or of the long format. -/
theorem Instr.exists_row (i : Instr) :
    (∃ op reg addr, i = decodeShort op reg addr) ∨ ∃ op4 reg addr, i = decodeLong op4 reg addr := by
  rw [← i.eq_row]
  split_ifs
  · exact .inr ⟨_, _, _, rfl⟩
  · exact .inl ⟨_, _, _, rfl⟩

section rows
variable (op : BitVec 6) (op4 : BitVec 4) (reg : BitVec 4) (addr : Addr)

@[simp] theorem opcode_decodeShort : (decodeShort op reg addr).opcode = op.toNat :=
  congrArg Prod.fst (fields_decodeShort op reg addr)

@[simp] theorem reg_decodeShort : (decodeShort op reg addr).reg = reg :=
  congrArg (·.2.1) (fields_decodeShort op reg addr)

@[simp] theorem addr_decodeShort : (decodeShort op reg addr).addr = addr :=
  congrArg (·.2.2) (fields_decodeShort op reg addr)

@[simp] theorem isLong_decodeShort : (decodeShort op reg addr).isLong = false := by
  have hop := op.isLt
  simp only [Instr.isLong, opcode_decodeShort, decide_eq_false_iff_not]
  omega

@[simp] theorem encode_decodeShort : encode (decodeShort op reg addr) = encodeShort reg op addr := by
  simp [encode]

@[simp] theorem opcode_decodeLong : (decodeLong op4 reg addr).opcode = 0o200 + 8 * op4.toNat :=
  congrArg Prod.fst (fields_decodeLong op4 reg addr)

@[simp] theorem reg_decodeLong : (decodeLong op4 reg addr).reg = reg :=
  congrArg (·.2.1) (fields_decodeLong op4 reg addr)

@[simp] theorem addr_decodeLong : (decodeLong op4 reg addr).addr = addr :=
  congrArg (·.2.2) (fields_decodeLong op4 reg addr)

@[simp] theorem isLong_decodeLong : (decodeLong op4 reg addr).isLong = true := by
  simp [Instr.isLong]

@[simp] theorem encode_decodeLong : encode (decodeLong op4 reg addr) = encodeLong reg op4 addr := by
  simp [encode]

@[simp] theorem wellFormed_decodeShort : (decodeShort op reg addr).wellFormed = shortReachable addr := by
  simp [Instr.wellFormed]

@[simp] theorem wellFormed_decodeLong : (decodeLong op4 reg addr).wellFormed = true := by
  simp [Instr.wellFormed]

end rows

/-! ### The address of the short format (R104) -/

/-- The two parts of a short address add: the extension's bits lie above the field's. -/
theorem toNat_shortAddress (ext : Bool) (a12 : BitVec 12) :
    (shortAddress ext a12).toNat = a12.toNat + if ext then 0o70000 else 0 := by
  have hwide : (a12.setWidth 15).toNat = a12.toNat := BitVec.toNat_setWidth_of_le (by omega)
  cases ext with
  | false => exact hwide
  | true =>
    have hor : 2 ^ 12 * 7 + a12.toNat = 2 ^ 12 * 7 ||| a12.toNat := Nat.two_pow_add_eq_or_of_lt a12.isLt 7
    rw [shortAddress, if_pos rfl, BitVec.toNat_or, hwide, Nat.lor_comm]
    exact hor.symm.trans (Nat.add_comm _ _)

theorem shortReachable_shortAddress (ext : Bool) (a12 : BitVec 12) : shortReachable (shortAddress ext a12) = true := by
  have hlt := a12.isLt
  simp only [shortReachable, Bool.or_eq_true, decide_eq_true_iff, toNat_shortAddress]
  split_ifs <;> omega

/-- The two ranges of a short address tell its extension bit. -/
theorem extension_shortAddress (ext : Bool) (a12 : BitVec 12) :
    decide (0o70000 ≤ (shortAddress ext a12).toNat) = ext := by
  have hlt := a12.isLt
  rw [toNat_shortAddress]
  cases ext with
  | false => exact decide_eq_false (by rw [if_neg Bool.false_ne_true]; omega)
  | true => exact decide_eq_true (Nat.le_add_left _ _)

theorem low_shortAddress (ext : Bool) (a12 : BitVec 12) : (shortAddress ext a12).extractLsb' 0 12 = a12 := by
  have hlt := a12.isLt
  apply BitVec.eq_of_toNat_eq
  rw [BitVec.extractLsb'_toNat, toNat_shortAddress, Nat.shiftRight_zero]
  split_ifs <;> omega

/-- A reachable address is the one its extension bit and its low 12 bits assemble. -/
theorem shortAddress_of_reachable {a : Addr} (h : shortReachable a = true) :
    shortAddress (decide (0o70000 ≤ a.toNat)) (a.extractLsb' 0 12) = a := by
  have hlt := a.isLt
  apply BitVec.eq_of_toNat_eq
  rw [toNat_shortAddress]
  simp only [shortReachable, Bool.or_eq_true, decide_eq_true_iff, BitVec.extractLsb'_toNat, Nat.shiftRight_zero] at h ⊢
  split_ifs <;> omega

/-! ### The two formats (R102, R103) -/

theorem toNat_encodeShort (reg : BitVec 4) (op : BitVec 6) (a : Addr) :
    (encodeShort reg op a).toNat =
      reg.toNat * 2 ^ 20 + (if 0o70000 ≤ a.toNat then 2 ^ 18 else 0) + op.toNat * 2 ^ 12 + a.toNat % 2 ^ 12 := by
  simp only [encodeShort, Machine.toNat_append_eq, BitVec.toNat_ofBool, BitVec.extractLsb'_toNat, Nat.shiftRight_zero]
  split_ifs with h <;> simp [h] <;> omega

theorem toNat_encodeLong (reg op4 : BitVec 4) (a : Addr) :
    (encodeLong reg op4 a).toNat = reg.toNat * 2 ^ 20 + (0o200 + 8 * op4.toNat) * 2 ^ 12 + a.toNat := by
  simp only [encodeLong, Machine.toNat_append_eq, BitVec.toNat_ofNat]
  omega

/-! A field and a bit of a half-instruction as numbers, and what the decoder reads back from an encoding. -/

theorem toNat_field (h : Half) (start len : Nat) : (h.extractLsb' start len).toNat = h.toNat / 2 ^ start % 2 ^ len := by
  rw [BitVec.extractLsb'_toNat, Nat.shiftRight_eq_div_pow]

theorem bit_eq_decide (h : Half) (i : Nat) : h.getLsbD i = decide (h.toNat / 2 ^ i % 2 = 1) :=
  Nat.testBit_eq_decide_div_mod_eq

theorem toNat_bit (h : Half) (i : Nat) : (h.getLsbD i).toNat = h.toNat / 2 ^ i % 2 := Nat.toNat_testBit _ _

section fields
variable (reg : BitVec 4) (op : BitVec 6) (op4 : BitVec 4) (a : Addr)

theorem formatBit_encodeShort : (encodeShort reg op a).getLsbD 19 = false := by
  rw [bit_eq_decide, toNat_encodeShort, decide_eq_false_iff_not]
  split_ifs <;> omega

theorem extensionBit_encodeShort : (encodeShort reg op a).getLsbD 18 = decide (0o70000 ≤ a.toNat) := by
  rw [bit_eq_decide, toNat_encodeShort, decide_eq_decide]
  split_ifs <;> omega

theorem regField_encodeShort : (encodeShort reg op a).extractLsb' 20 4 = reg := by
  apply BitVec.eq_of_toNat_eq
  rw [toNat_field, toNat_encodeShort]
  split_ifs <;> omega

theorem opField_encodeShort : (encodeShort reg op a).extractLsb' 12 6 = op := by
  apply BitVec.eq_of_toNat_eq
  rw [toNat_field, toNat_encodeShort]
  split_ifs <;> omega

theorem addrField_encodeShort : (encodeShort reg op a).extractLsb' 0 12 = a.extractLsb' 0 12 :=
  BitVec.extractLsb'_append_eq_right

theorem formatBit_encodeLong : (encodeLong reg op4 a).getLsbD 19 = true := by
  rw [bit_eq_decide, toNat_encodeLong, decide_eq_true_iff]
  omega

theorem regField_encodeLong : (encodeLong reg op4 a).extractLsb' 20 4 = reg := by
  apply BitVec.eq_of_toNat_eq
  rw [toNat_field, toNat_encodeLong]
  omega

theorem opField_encodeLong : (encodeLong reg op4 a).extractLsb' 15 4 = op4 := by
  apply BitVec.eq_of_toNat_eq
  rw [toNat_field, toNat_encodeLong]
  omega

theorem addrField_encodeLong : (encodeLong reg op4 a).extractLsb' 0 15 = a := BitVec.extractLsb'_append_eq_right

end fields

/-! ### The decoder inverts the encoder (R110) -/

theorem decode_of_short {h : Half} (hf : h.getLsbD 19 = false) :
    decode h = decodeShort (h.extractLsb' 12 6) (h.extractLsb' 20 4)
      (shortAddress (h.getLsbD 18) (h.extractLsb' 0 12)) :=
  if_neg (Bool.eq_false_iff.1 hf)

theorem decode_of_long {h : Half} (hf : h.getLsbD 19 = true) :
    decode h = decodeLong (h.extractLsb' 15 4) (h.extractLsb' 20 4) (h.extractLsb' 0 15) :=
  if_pos hf

theorem decode_encodeShort (reg : BitVec 4) (op : BitVec 6) {a : Addr} (h : shortReachable a = true) :
    decode (encodeShort reg op a) = decodeShort op reg a := by
  rw [decode_of_short (formatBit_encodeShort reg op a), opField_encodeShort, regField_encodeShort,
    extensionBit_encodeShort, addrField_encodeShort, shortAddress_of_reachable h]

theorem decode_encodeLong (reg op4 : BitVec 4) (a : Addr) : decode (encodeLong reg op4 a) = decodeLong op4 reg a := by
  rw [decode_of_long (formatBit_encodeLong reg op4 a), opField_encodeLong, regField_encodeLong, addrField_encodeLong]

/-- Settles O1: for the row of each format the decoder inverts the encoder, and the encoding's number is that of its
concatenation. -/
theorem encodingFollowsTheFormats : Obligations.EncodingFollowsTheFormats := by
  refine ⟨fun i hwf => ?_, fun l r => ⟨?_, BitVec.extractLsb'_append_eq_left, BitVec.extractLsb'_append_eq_right⟩⟩
  · obtain ⟨op, reg, a, rfl⟩ | ⟨op4, reg, a, rfl⟩ := i.exists_row
    · rw [wellFormed_decodeShort] at hwf
      simp [decode_encodeShort reg op hwf, toNat_encodeShort]
    · simp [decode_encodeLong, toNat_encodeLong]
  · rw [joinHalves, Machine.toNat_append_eq, Nat.mul_comm]

/-! ### Every pattern (R107) -/

/-- A half-instruction is the concatenation of the short format's fields. -/
theorem shortFields_append (h : Half) :
    h.extractLsb' 20 4 ++ BitVec.ofBool (h.getLsbD 19) ++ BitVec.ofBool (h.getLsbD 18) ++ h.extractLsb' 12 6
      ++ h.extractLsb' 0 12 = h := by
  apply BitVec.eq_of_toNat_eq
  simp only [Machine.toNat_append_eq, BitVec.toNat_ofBool, toNat_field, toNat_bit]
  omega

/-- A half-instruction is the concatenation of the long format's fields. -/
theorem longFields_append (h : Half) :
    h.extractLsb' 20 4 ++ BitVec.ofBool (h.getLsbD 19) ++ h.extractLsb' 15 4 ++ h.extractLsb' 0 15 = h := by
  apply BitVec.eq_of_toNat_eq
  simp only [Machine.toNat_append_eq, BitVec.toNat_ofBool, toNat_field, toNat_bit]
  omega

/-- The encoder of the short format puts a pattern's own fields back. -/
theorem encodeShort_fields {h : Half} (hf : h.getLsbD 19 = false) :
    encodeShort (h.extractLsb' 20 4) (h.extractLsb' 12 6) (shortAddress (h.getLsbD 18) (h.extractLsb' 0 12)) = h := by
  rw [encodeShort, extension_shortAddress, low_shortAddress]
  have happ := shortFields_append h
  rwa [hf] at happ

/-- The encoder of the long format puts a pattern's own fields back. -/
theorem encodeLong_fields {h : Half} (hf : h.getLsbD 19 = true) :
    encodeLong (h.extractLsb' 20 4) (h.extractLsb' 15 4) (h.extractLsb' 0 15) = h := by
  have happ := longFields_append h
  rwa [hf] at happ

/-! ### Match and mask (30_encoding.md section 3) -/

/-- The mask of the short format keeps the format bit and the six opcode bits. -/
theorem and_shortMask (h : Half) :
    h &&& 0x0BF000#24 = 0#4 ++ BitVec.ofBool (h.getLsbD 19) ++ 0#1 ++ h.extractLsb' 12 6 ++ 0#12 := calc
  h &&& 0x0BF000#24 =
      (h.extractLsb' 20 4 ++ BitVec.ofBool (h.getLsbD 19) ++ BitVec.ofBool (h.getLsbD 18) ++ h.extractLsb' 12 6
        ++ h.extractLsb' 0 12) &&& (0#4 ++ BitVec.allOnes 1 ++ 0#1 ++ BitVec.allOnes 6 ++ 0#12) := by
    rw [shortFields_append]
    rfl
  _ = _ := by simp only [BitVec.and_append, BitVec.and_zero, BitVec.and_allOnes]

/-- The mask of the long format keeps the format bit and the four opcode bits. -/
theorem and_longMask (h : Half) :
    h &&& 0x0F8000#24 = 0#4 ++ BitVec.ofBool (h.getLsbD 19) ++ h.extractLsb' 15 4 ++ 0#15 := calc
  h &&& 0x0F8000#24 =
      (h.extractLsb' 20 4 ++ BitVec.ofBool (h.getLsbD 19) ++ h.extractLsb' 15 4 ++ h.extractLsb' 0 15)
        &&& (0#4 ++ BitVec.allOnes 1 ++ BitVec.allOnes 4 ++ 0#15) := by
    rw [longFields_append]
    rfl
  _ = _ := by simp only [BitVec.and_append, BitVec.and_zero, BitVec.and_allOnes]

theorem shortMatch_iff (h : Half) {n : Nat} (hn : n < 64) :
    h &&& 0x0BF000 = BitVec.ofNat 24 (n <<< 12) ↔ h.getLsbD 19 = false ∧ (h.extractLsb' 12 6).toNat = n := by
  have hop := (h.extractLsb' 12 6).isLt
  rw [BitVec.natCast_eq_ofNat, and_shortMask, ← BitVec.toNat_inj]
  simp only [Machine.toNat_append_eq, BitVec.toNat_ofNat, BitVec.toNat_ofBool, Nat.shiftLeft_eq]
  cases h.getLsbD 19 with
  | false => simp only [Bool.toNat_false, true_and]; omega
  | true => simp only [Bool.toNat_true, Bool.true_eq_false, false_and, iff_false]; omega

theorem longMatch_iff (h : Half) {k : Nat} (hk : k < 16) :
    h &&& 0x0F8000 = BitVec.ofNat 24 (0x080000 ||| k <<< 15) ↔
      h.getLsbD 19 = true ∧ (h.extractLsb' 15 4).toNat = k := by
  have hop := (h.extractLsb' 15 4).isLt
  have hor : 0x080000 ||| k * 2 ^ 15 = 0x080000 + k * 2 ^ 15 :=
    (Nat.two_pow_add_eq_or_of_lt (i := 19) (by omega) 1).symm
  rw [BitVec.natCast_eq_ofNat, and_longMask, ← BitVec.toNat_inj, Nat.shiftLeft_eq, hor]
  simp only [Machine.toNat_append_eq, BitVec.toNat_ofNat, BitVec.toNat_ofBool]
  cases h.getLsbD 19 with
  | false => simp only [Bool.toNat_false, Bool.false_eq_true, false_and, iff_false]; omega
  | true => simp only [Bool.toNat_true, true_and]; omega

/-- Settles O2: the format bit selects the format, and each clause is a fact about that format's row and fields. An opcode
of the other format is out of range. -/
theorem decodingIsTotal : Obligations.DecodingIsTotal := by
  intro h
  cases hf : h.getLsbD 19 with
  | false =>
    have hop := (h.extractLsb' 12 6).isLt
    rw [decode_of_short hf, wellFormed_decodeShort, encode_decodeShort, opcode_decodeShort, reg_decodeShort,
      isLong_decodeShort, addr_decodeShort]
    refine ⟨shortReachable_shortAddress _ _, encodeShort_fields hf, fun n hn => ?_, fun k hk => ?_, rfl, rfl,
      fun _ => toNat_shortAddress _ _, nofun⟩
    · simp only [shortMatch_iff h hn, hf, true_and]
    · simp only [longMatch_iff h hk, hf, Bool.false_eq_true, false_and, iff_false]
      omega
  | true =>
    rw [decode_of_long hf, wellFormed_decodeLong, encode_decodeLong, opcode_decodeLong, reg_decodeLong,
      isLong_decodeLong, addr_decodeLong]
    refine ⟨rfl, encodeLong_fields hf, fun n hn => ?_, fun k hk => ?_, rfl, rfl, nofun, fun _ => rfl⟩
    · simp only [shortMatch_iff h hn, hf, Bool.true_eq_false, false_and, iff_false]
      omega
    · simp only [longMatch_iff h hk, hf, true_and]
      omega

end Sys2Proof

/-!
PROOFS of the family of the arithmetic unit. The statements are about two numbers: how many mask bits stand under a
position (`maskBelow`, for `Pack` and `Unpack`), and the mantissa and remainder read as one signed integer (`scaled`, for
normalization). `normalize_cases` says once what normalization can do; the rules about `NormRound` go through it.
-/
namespace Sys2Proof.Machine.Alu

/-! ### Pack and Unpack (R137) -/

/-- How many mask bits stand under position `p`. -/
def maskBelow (m : Word) (p : Nat) : Nat := ((List.range p).filter fun i => m.getLsbD i).length

theorem maskBelow_succ (m : Word) (p : Nat) : maskBelow m (p + 1) = maskBelow m p + (m.getLsbD p).toNat := by
  cases h : m.getLsbD p <;> simp [maskBelow, List.range_succ, List.filter_append, h]

theorem maskBelow_succ_of_set {m : Word} {p : Nat} (h : m.getLsbD p = true) :
    maskBelow m (p + 1) = maskBelow m p + 1 := by
  simp [maskBelow_succ, h]

theorem maskBelow_succ_of_clear {m : Word} {p : Nat} (h : m.getLsbD p = false) :
    maskBelow m (p + 1) = maskBelow m p := by
  simp [maskBelow_succ, h]

theorem maskBelow_le (m : Word) (p : Nat) : maskBelow m p ≤ p :=
  (List.length_filter_le _ _).trans_eq List.length_range

theorem maskBelow_mono (m : Word) : Monotone (maskBelow m) :=
  monotone_nat_of_le_succ fun p => by rw [maskBelow_succ]; omega

theorem maskBelow_lt {m : Word} {p q : Nat} (h : m.getLsbD p = true) (hpq : p < q) : maskBelow m p < maskBelow m q := by
  have hmono := maskBelow_mono m (show p + 1 ≤ q from hpq)
  rwa [maskBelow_succ_of_set h] at hmono

/-- Each mask bit that is left pushes what has been gathered one position down. -/
theorem getLsbD_gatherFrom_pushed (v m : Word) {n : Nat} (hn : n ≤ 48) (r : Word) (b : Nat)
    (hb : b + (maskBelow m 48 - maskBelow m (48 - n)) < 48) :
    (gatherFrom v m n r).getLsbD b = r.getLsbD (b + (maskBelow m 48 - maskBelow m (48 - n))) := by
  induction n generalizing r with
  | zero => simp [gatherFrom]
  | succ n ih =>
    have hnext : 48 - n = 48 - (n + 1) + 1 := by omega
    have hmono := maskBelow_mono m (show 48 - n ≤ 48 by omega)
    cases hbit : m.getLsbD (48 - (n + 1)) with
    | false =>
      have hcount := maskBelow_succ_of_clear hbit
      rw [← hnext] at hcount
      simp only [gatherFrom, hbit, Bool.false_eq_true, if_false]
      rw [ih (by omega) _ (by omega), hcount]
    | true =>
      have hcount := maskBelow_succ_of_set hbit
      rw [← hnext] at hcount
      simp only [gatherFrom, hbit, if_true]
      rw [ih (by omega) _ (by omega), setBit_other _ _ _ _ (by omega), BitVec.getLsbD_ushiftRight]
      congr 1
      omega

/-- A selected bit that is left goes to its place counted from the top. -/
theorem getLsbD_gatherFrom_selected (v m : Word) {n : Nat} (hn : n ≤ 48) (r : Word) {p : Nat} (hp : 48 - n ≤ p)
    (hp48 : p < 48) (hsel : m.getLsbD p = true) :
    (gatherFrom v m n r).getLsbD (48 - maskBelow m 48 + maskBelow m p) = v.getLsbD p := by
  induction n generalizing r with
  | zero => omega
  | succ n ih =>
    rcases hp.eq_or_lt with rfl | hlt
    · have hcount := maskBelow_succ_of_set hsel
      have hlast := maskBelow_lt hsel hp48
      have htotal := maskBelow_le m 48
      have hnext : 48 - (n + 1) + 1 = 48 - n := by omega
      rw [hnext] at hcount
      simp only [gatherFrom, hsel, if_true]
      rw [getLsbD_gatherFrom_pushed v m (by omega) _ _ (by omega), hcount,
        show 48 - maskBelow m 48 + maskBelow m (48 - (n + 1)) + (maskBelow m 48 - (maskBelow m (48 - (n + 1)) + 1)) = 47
          by omega]
      exact setBit_self _ _ _ (by omega)
    · exact ih (by omega) _ (by omega)

theorem getLsbD_gather_selected (v m : Word) {p : Nat} (hp : p < 48) (hsel : m.getLsbD p = true) :
    (gather v m).getLsbD (48 - maskBelow m 48 + maskBelow m p) = v.getLsbD p :=
  getLsbD_gatherFrom_selected v m le_rfl 0 (Nat.zero_le p) hp hsel

theorem getLsbD_gather_low (v m : Word) {b : Nat} (hb : b < 48 - maskBelow m 48) : (gather v m).getLsbD b = false := by
  have hnone : maskBelow m (48 - 48) = 0 := rfl
  unfold gather
  rw [getLsbD_gatherFrom_pushed v m le_rfl 0 b (by omega)]
  exact BitVec.getLsbD_zero

/-- A position that is left takes its bit of `v` counted from the top; every other position stays as it is. -/
theorem getLsbD_scatterFrom (m : Word) {n : Nat} (hn : n ≤ 48) (v r : Word) (p : Nat) (hp : p < 48) :
    (scatterFrom m n v r).getLsbD p =
      if p < n ∧ m.getLsbD p = true then v.getLsbD (48 - maskBelow m n + maskBelow m p) else r.getLsbD p := by
  induction n generalizing v r with
  | zero => simp [scatterFrom]
  | succ n ih =>
    cases hbit : m.getLsbD n with
    | false =>
      have hsame : (p < n + 1 ∧ m.getLsbD p = true) ↔ (p < n ∧ m.getLsbD p = true) := by
        refine and_congr_left fun hsel => ⟨fun hle => ?_, fun hlt => by omega⟩
        have hne : p ≠ n := by rintro rfl; simp [hbit] at hsel
        omega
      simp only [scatterFrom, hbit, Bool.false_eq_true, if_false]
      rw [ih (by omega), maskBelow_succ_of_clear hbit]
      simp only [hsame]
    | true =>
      have hroom := maskBelow_le m n
      simp only [scatterFrom, hbit, if_true]
      rw [ih (by omega), maskBelow_succ_of_set hbit]
      rcases lt_trichotomy p n with hlt | rfl | hgt
      · rw [setBit_other _ _ _ _ (by omega)]
        simp only [hlt, Nat.lt_succ_of_lt hlt, true_and]
        split_ifs with hsel
        · have hplace := maskBelow_lt hsel hlt
          rw [BitVec.getLsbD_shiftLeft, decide_eq_true (by omega), decide_eq_false (by omega)]
          simp only [Bool.not_false, Bool.true_and]
          congr 1
          omega
        · rfl
      · rw [if_neg (by omega), if_pos ⟨by omega, hbit⟩, setBit_self _ _ _ hp]
        congr 1
        omega
      · rw [if_neg (by omega), if_neg (by omega), setBit_other _ _ _ _ (by omega)]

theorem getLsbD_scatter (v m : Word) {p : Nat} (hp : p < 48) :
    (scatter v m).getLsbD p = (m.getLsbD p && v.getLsbD (48 - maskBelow m 48 + maskBelow m p)) := by
  unfold scatter
  rw [getLsbD_scatterFrom m le_rfl v 0 p hp]
  cases m.getLsbD p <;> simp [hp]

theorem scatter_gather (v m : Word) : scatter (gather v m) m = v &&& m := by
  refine BitVec.eq_of_getLsbD_eq fun p hp => ?_
  rw [getLsbD_scatter _ _ hp, BitVec.getLsbD_and, Bool.and_comm]
  cases hsel : m.getLsbD p with
  | false => simp
  | true => rw [getLsbD_gather_selected v m hp hsel]

/-- Settles O29: the place of each bit is `getLsbD_gather_selected` and `getLsbD_scatter`, and they meet in
`scatter_gather`. -/
theorem packAndUnpack : Obligations.PackAndUnpack := fun v m =>
  ⟨fun _ hp hsel => getLsbD_gather_selected v m hp hsel, fun _ hb => getLsbD_gather_low v m hb,
    fun _ hp => getLsbD_scatter v m hp, scatter_gather v m⟩

/-! ### Shift (R134) -/

theorem shift_right_of_lt {k : Nat} (hk : k < 48) (v : Word) : shift k v = (v >>> k, v <<< (48 - k)) := by
  rcases Nat.eq_zero_or_pos k with rfl | hpos
  · simp [shift]
  · simp [shift, hk, hpos, hpos.ne']

theorem shift_right_of_ge {k : Nat} (hk : 48 ≤ k) (v : Word) : shift k v = (0, v >>> (k - 48)) := by
  have hpos : 0 < k := by omega
  simp [shift, hpos, hpos.ne', Nat.not_lt.2 hk]

theorem shift_left_of_lt {k : Nat} (hpos : 0 < k) (hk : k < 48) (v : Word) :
    shift (-(k : Int)) v = (v <<< k, v >>> (48 - k)) := by
  simp [shift, hpos.ne', hk]

theorem shift_left_of_ge {k : Nat} (hk : 48 ≤ k) (v : Word) : shift (-(k : Int)) v = (0, v <<< (k - 48)) := by
  have hpos : 0 < k := by omega
  simp [shift, hpos.ne', Nat.not_lt.2 hk]

/-- ACC and RMR after a shift right are the 96 bits with ACC on top, shifted right: below 48 both halves hold bits
of `v`, from 48 on only RMR does, and each of their bits has one source on the other side. -/
theorem shift_right_append (v : Word) (k : Nat) : (shift k v).1 ++ (shift k v).2 = (v ++ 0#48) >>> k := by
  refine BitVec.eq_of_getLsbD_eq fun i hi => ?_
  rcases Nat.lt_or_ge k 48 with hk | hk
  · rw [shift_right_of_lt hk]
    simp only [BitVec.getLsbD_append, BitVec.getLsbD_ushiftRight, BitVec.getLsbD_shiftLeft, BitVec.getLsbD_zero]
    grind
  · rw [shift_right_of_ge hk]
    simp only [BitVec.getLsbD_append, BitVec.getLsbD_ushiftRight, BitVec.getLsbD_zero]
    grind

/-- RMR and ACC after a shift left are the 96 bits with ACC below, shifted left. -/
theorem shift_left_append (v : Word) {k : Nat} (hpos : 0 < k) :
    (shift (-(k : Int)) v).2 ++ (shift (-(k : Int)) v).1 = (0#48 ++ v) <<< k := by
  refine BitVec.eq_of_getLsbD_eq fun i hi => ?_
  rcases Nat.lt_or_ge k 48 with hk | hk
  · rw [shift_left_of_lt hpos hk]
    simp only [BitVec.getLsbD_append, BitVec.getLsbD_ushiftRight, BitVec.getLsbD_shiftLeft, BitVec.getLsbD_zero]
    grind
  · rw [shift_left_of_ge hk]
    simp only [BitVec.getLsbD_append, BitVec.getLsbD_shiftLeft, BitVec.getLsbD_zero]
    grind

/-- Settles O30: `shift_right_append` and `shift_left_append`, neither of which needs the bound on the count. -/
theorem shiftIsOf96Bits : Obligations.ShiftIsOf96Bits := fun v k =>
  ⟨fun _ => shift_right_append v k, fun hpos _ => shift_left_append v hpos⟩

/-! ### Addition (R127) -/

/-- `Add` after the operands are ordered (R127): `s` is aligned to `g` and added to it. -/
def addAligned (rau : BitVec 6) (rmr : Word) (s g : Work) : Out :=
  let t := align s (g.e - s.e).toNat
  let sum : BitVec 43 := t.m.setWidth 43 + g.m.setWidth 43
  if sum.getLsbD 41 != sum.getLsbD 40 then
    normRound rau rmr { m := (sum >>> 1).setWidth 42, e := g.e + 1 } (setBit (t.mr >>> 1) 39 (sum.getLsbD 0))
      (t.rq || sum.getLsbD 0)
  else normRound rau rmr { m := sum.setWidth 42, e := g.e } t.mr t.rq

/-- `Add` without negation: the operand of the smaller exponent is aligned, and of two with one exponent it is `x`. -/
theorem add_eq_addAligned (rau : BitVec 6) (acc rmr x : Word) :
    add rau acc rmr x false false =
      if (unpack acc).e < (unpack x).e then addAligned rau rmr (unpack acc) (unpack x)
      else addAligned rau rmr (unpack x) (unpack acc) := by
  split_ifs with hlt <;> simp only [add, preNegate, hlt, if_true, if_false] <;> rfl

/-- Between operands of one exponent nothing is shifted, and the sum of the mantissas commutes. -/
theorem addAligned_comm (rau : BitVec 6) (rmr : Word) {s g : Work} (he : s.e = g.e) :
    addAligned rau rmr s g = addAligned rau rmr g s := by
  simp only [addAligned, align, he, sub_self, Int.toNat_zero, if_true, add_comm]

/-- Settles O34: of two exponents that differ both orders align the smaller, and equal ones are `addAligned_comm`. -/
theorem additionCommutes : Obligations.AdditionCommutes := by
  intro rau x y rmr
  rw [add_eq_addAligned, add_eq_addAligned]
  rcases lt_trichotomy (unpack x).e (unpack y).e with hlt | heq | hgt
  · rw [if_pos hlt, if_neg hlt.asymm]
  · rw [if_neg heq.not_lt, if_neg heq.not_gt, addAligned_comm rau rmr heq]
  · rw [if_neg hgt.asymm, if_pos hgt]

/-! ### Normalization (R124) -/

/-- The signed 41-bit mantissa and the remainder below it, read as one integer. -/
def scaled (m : BitVec 42) (r : BitVec 40) : Int := (m.setWidth 41).toInt * 2 ^ 40 + r.toNat

/-- The mantissa's bit 40 weighs `-2 ^ 80`, every bit under it its own place. -/
theorem scaled_eq (m : BitVec 42) (r : BitVec 40) :
    scaled m r = (m.setWidth 40).toNat * 2 ^ 40 + r.toNat - if m.getLsbD 40 then 2 ^ 80 else 0 := by
  have hlow : (m.setWidth 41).toNat = (m.setWidth 40).toNat + 2 ^ 40 * (m.getLsbD 40).toNat := by
    simp only [BitVec.toNat_setWidth, BitVec.getLsbD, Nat.toNat_testBit]
    omega
  have hlt := (m.setWidth 40).isLt
  rw [scaled, BitVec.toInt_eq_toNat_cond, hlow]
  cases m.getLsbD 40 <;> simp <;> omega

theorem scaled_of_nonneg {m : BitVec 42} (h : m.getLsbD 40 = false) (r : BitVec 40) :
    scaled m r = (m.setWidth 40).toNat * 2 ^ 40 + r.toNat := by
  rw [scaled_eq, h, if_neg Bool.false_ne_true, sub_zero]

theorem scaled_of_neg {m : BitVec 42} (h : m.getLsbD 40 = true) (r : BitVec 40) :
    scaled m r = (m.setWidth 40).toNat * 2 ^ 40 + r.toNat - 2 ^ 80 := by
  rw [scaled_eq, if_pos h]

/-- `n` is a normal form of the mantissa and exponent of `a` with the remainder `mr` (R124): the same number, scaled by
the exponent, and a mantissa whose two top bits differ. -/
structure Normal.IsNormalForm (n : Normal) (a : Work) (mr : BitVec 40) : Prop where
  exponent_le : n.e ≤ a.e
  scaled_eq : scaled n.m n.mr = scaled a.m mr * 2 ^ (a.e - n.e).toNat
  normalized : n.m.getLsbD 40 ≠ n.m.getLsbD 39

/-- The highest bit of the low mantissa or the remainder goes to bit 39 (R123). -/
theorem lead_spec {x : BitVec 40} (hx : x ≠ 0) :
    lead x ≤ 39 ∧ 2 ^ 39 ≤ x.toNat * 2 ^ lead x ∧ x.toNat * 2 ^ lead x < 2 ^ 40 := by
  have hne : x.toNat ≠ 0 := fun h => hx (BitVec.eq_of_toNat_eq h)
  have hlog : x.toNat.log2 < 40 := (Nat.log2_lt hne).2 x.isLt
  have hlo : 2 ^ x.toNat.log2 ≤ x.toNat := Nat.log2_self_le hne
  have hhi : x.toNat < 2 ^ (x.toNat.log2 + 1) := Nat.lt_log2_self
  refine ⟨Nat.sub_le _ _, ?_, ?_⟩
  · calc 2 ^ 39 = 2 ^ x.toNat.log2 * 2 ^ lead x := by rw [← pow_add, lead]; congr 1; omega
      _ ≤ x.toNat * 2 ^ lead x := Nat.mul_le_mul_right _ hlo
  · calc x.toNat * 2 ^ lead x < 2 ^ (x.toNat.log2 + 1) * 2 ^ lead x := Nat.mul_lt_mul_of_pos_right hhi (by positivity)
      _ = 2 ^ 40 := by rw [← pow_add, lead]; congr 1; omega

/-- Fewer than `2 ^ c` is what `c` bits of the remainder bring into the mantissa. -/
theorem carriedIn_lt (y : BitVec 40) {c : Nat} (hc : c ≤ 40) : y.toNat / 2 ^ (40 - c) < 2 ^ c := by
  refine Nat.div_lt_of_lt_mul ?_
  rw [← pow_add, Nat.sub_add_cancel hc]
  exact y.isLt

/-- What a left shift by `c` leaves of the mantissa, with the top `c` bits of the remainder below it. -/
theorem toNat_shiftedIn (x y : BitVec 40) {c : Nat} (hc : c ≤ 40) :
    (x <<< c ||| y >>> (40 - c)).toNat = x.toNat * 2 ^ c % 2 ^ 40 + y.toNat / 2 ^ (40 - c) := by
  have hsplit : 2 ^ 40 = 2 ^ c * 2 ^ (40 - c) := by rw [← pow_add]; congr 1; omega
  rw [BitVec.toNat_or, BitVec.toNat_shiftLeft, BitVec.toNat_ushiftRight, Nat.shiftLeft_eq, Nat.shiftRight_eq_div_pow,
    Nat.mul_comm, hsplit, Nat.mul_mod_mul_left, Nat.two_pow_add_eq_or_of_lt (carriedIn_lt y hc)]

/-- The remainder shifted left, with the bits that left it at the top. -/
theorem toNat_shiftedOut (y : BitVec 40) {c : Nat} (hc : c ≤ 40) :
    y.toNat / 2 ^ (40 - c) * 2 ^ 40 + (y <<< c).toNat = y.toNat * 2 ^ c := by
  have hsplit : 2 ^ 40 = 2 ^ c * 2 ^ (40 - c) := by rw [← pow_add]; congr 1; omega
  rw [BitVec.toNat_shiftLeft, Nat.shiftLeft_eq, hsplit, Nat.mul_comm y.toNat, Nat.mul_mod_mul_left]
  calc y.toNat / 2 ^ (40 - c) * (2 ^ c * 2 ^ (40 - c)) + 2 ^ c * (y.toNat % 2 ^ (40 - c))
      = 2 ^ c * (2 ^ (40 - c) * (y.toNat / 2 ^ (40 - c)) + y.toNat % 2 ^ (40 - c)) := by ring
    _ = 2 ^ c * y.toNat := by rw [Nat.div_add_mod]

/-- Shifting a field of ones above `~~~x` left keeps the distance to `2 ^ 40`, one unit of the last place included. -/
theorem toNat_shiftLeft_of_not {x : BitVec 40} {c : Nat} (hc : c ≤ 40) (h : (~~~x).toNat * 2 ^ c < 2 ^ 40) :
    x.toNat * 2 ^ c % 2 ^ 40 + (~~~x).toNat * 2 ^ c + 2 ^ c = 2 ^ 40 := by
  have hsplit : 2 ^ 40 = 2 ^ (40 - c) * 2 ^ c := by rw [← pow_add]; congr 1; omega
  have hnot : (~~~x).toNat + 1 + x.toNat = 2 ^ 40 := by rw [BitVec.toNat_not]; omega
  have hroom : (~~~x).toNat + 1 ≤ 2 ^ (40 - c) := Nat.lt_of_mul_lt_mul_right (hsplit ▸ h)
  obtain ⟨d, hd⟩ := Nat.exists_eq_add_of_le hroom
  obtain ⟨k, hk⟩ := Nat.exists_eq_add_of_lt (Nat.two_pow_pos c)
  have hsum : 2 ^ 40 = (~~~x).toNat * 2 ^ c + 2 ^ c + d * 2 ^ c := by rw [hsplit, hd]; ring
  have hshift : x.toNat * 2 ^ c = 2 ^ 40 * k + d * 2 ^ c := by
    have hall : ((~~~x).toNat + 1 + x.toNat) * 2 ^ c = 2 ^ 40 * k + 2 ^ 40 := by rw [hnot, hk]; ring
    linarith
  have hpos := Nat.two_pow_pos c
  rw [hshift, Nat.mul_add_mod, Nat.mod_eq_of_lt (by omega)]
  omega

theorem bit39_eq_decide (x : BitVec 40) : x.getLsbD 39 = decide (2 ^ 39 ≤ x.toNat) := BitVec.msb_eq_decide x

theorem getLsbD_signBit_or (x : BitVec 40) {i : Nat} (hi : i < 40) :
    (signBit ||| x.setWidth 42).getLsbD i = x.getLsbD i := by
  have hoff : signBit.getLsbD i = false := by interval_cases i <;> rfl
  rw [BitVec.getLsbD_or, hoff, BitVec.getLsbD_setWidth, decide_eq_true (by omega), Bool.false_or, Bool.true_and]

theorem setWidth_signBit_or (x : BitVec 40) : (signBit ||| x.setWidth 42).setWidth 40 = x :=
  BitVec.eq_of_getLsbD_eq fun i hi => by
    rw [BitVec.getLsbD_setWidth, decide_eq_true hi, Bool.true_and, getLsbD_signBit_or x hi]

/-- A nonnegative mantissa and the remainder, shifted left by `s` as one integer until bit 39 is set. -/
theorem isNormalForm_of_nonneg {a : Work} {mr x r : BitVec 40} {e : Int} {rr : Bool} {s : Nat}
    (hsign : a.m.getLsbD 40 = false) (he : a.e - e = s) (htop : 2 ^ 39 ≤ x.toNat)
    (hvalue : x.toNat * 2 ^ 40 + r.toNat = ((a.m.setWidth 40).toNat * 2 ^ 40 + mr.toNat) * 2 ^ s) :
    Normal.IsNormalForm { m := x.setWidth 42, e := e, mr := r, rr := rr } a mr := by
  have hbit : (x.setWidth 42).getLsbD 40 = false := by simp
  have hlow : (x.setWidth 42).setWidth 40 = x := BitVec.setWidth_setWidth_of_le x (by omega)
  refine ⟨by simp only; omega, ?_, ?_⟩
  · rw [scaled_of_nonneg hsign, scaled_of_nonneg hbit, hlow, he, Int.toNat_natCast]
    exact_mod_cast hvalue
  · rw [hbit, BitVec.getLsbD_setWidth, bit39_eq_decide, decide_eq_true htop]
    decide

/-- A negative mantissa and the remainder, shifted left by `s` as one integer until bit 39 is clear. -/
theorem isNormalForm_of_neg {a : Work} {mr x r : BitVec 40} {e : Int} {rr : Bool} {s : Nat}
    (hsign : a.m.getLsbD 40 = true) (he : a.e - e = s) (htop : x.toNat < 2 ^ 39)
    (hvalue : (x.toNat * 2 ^ 40 + r.toNat - 2 ^ 80 : Int) =
      ((a.m.setWidth 40).toNat * 2 ^ 40 + mr.toNat - 2 ^ 80) * 2 ^ s) :
    Normal.IsNormalForm { m := signBit ||| x.setWidth 42, e := e, mr := r, rr := rr } a mr := by
  have hbit : (signBit ||| x.setWidth 42).getLsbD 40 = true := by rw [BitVec.getLsbD_or]; rfl
  refine ⟨by simp only; omega, ?_, ?_⟩
  · rw [scaled_of_neg hsign, scaled_of_neg hbit, setWidth_signBit_or, he, Int.toNat_natCast]
    exact hvalue
  · rw [hbit, getLsbD_signBit_or x (by omega), bit39_eq_decide, decide_eq_false (by omega)]
    decide

theorem toNat_of_not_eq_zero {x : BitVec 40} (h : ~~~x = 0) : x.toNat = 2 ^ 40 - 1 := by
  rw [← BitVec.not_not (b := x), h]
  rfl

section arms
variable {a : Work} {mr : BitVec 40} {rr : Bool}

/-- R124 for a positive mantissa: it and the remainder move left by its leading zeros. -/
theorem isNormalForm_of_pos_mantissa (hsign : a.m.getLsbD 40 = false) {low : BitVec 40} (hlow : a.m.setWidth 40 = low)
    (hne : low ≠ 0) :
    Normal.IsNormalForm
      { m := (low <<< lead low ||| mr >>> (40 - lead low)).setWidth 42, e := a.e - lead low,
        mr := mr <<< lead low, rr := rr }
      a mr := by
  obtain ⟨hc, hmin, hmax⟩ := lead_spec hne
  have hin := toNat_shiftedIn low mr (c := lead low) (by omega)
  have hout := toNat_shiftedOut mr (c := lead low) (by omega)
  rw [Nat.mod_eq_of_lt hmax] at hin
  refine isNormalForm_of_nonneg hsign (sub_sub_cancel _ _) (by omega) ?_
  rw [hlow]
  linear_combination 2 ^ 40 * hin + hout

/-- R124 for a mantissa of zeros: the remainder takes its place, by 40 bits and its own leading zeros. -/
theorem isNormalForm_of_pos_remainder (hsign : a.m.getLsbD 40 = false) (hlow : a.m.setWidth 40 = 0) (hne : mr ≠ 0) :
    Normal.IsNormalForm { m := (mr <<< lead mr).setWidth 42, e := a.e - 40 - lead mr, mr := 0, rr := rr } a mr := by
  obtain ⟨hc, hmin, hmax⟩ := lead_spec hne
  have hin : (mr <<< lead mr).toNat = mr.toNat * 2 ^ lead mr := by
    rw [BitVec.toNat_shiftLeft, Nat.shiftLeft_eq, Nat.mod_eq_of_lt hmax]
  refine isNormalForm_of_nonneg (s := 40 + lead mr) hsign (by push_cast; ring) (by omega) ?_
  rw [hlow, hin, BitVec.ofNat_eq_ofNat, BitVec.toNat_zero, pow_add]
  ring

/-- R124 for a negative mantissa: it and the remainder move left by its leading ones. -/
theorem isNormalForm_of_neg_mantissa (hsign : a.m.getLsbD 40 = true) {low : BitVec 40} (hlow : a.m.setWidth 40 = low)
    (hne : ~~~low ≠ 0) :
    Normal.IsNormalForm
      { m := signBit ||| (low <<< lead (~~~low) ||| mr >>> (40 - lead (~~~low))).setWidth 42, e := a.e - lead (~~~low),
        mr := mr <<< lead (~~~low), rr := rr } a mr := by
  obtain ⟨hc, hmin, hmax⟩ := lead_spec hne
  have hin := toNat_shiftedIn low mr (c := lead (~~~low)) (by omega)
  have hout := toNat_shiftedOut mr (c := lead (~~~low)) (by omega)
  have hcarry := carriedIn_lt mr (c := lead (~~~low)) (by omega)
  have hleft := toNat_shiftLeft_of_not (x := low) (by omega) hmax
  have hnot : (~~~low).toNat + 1 + low.toNat = 2 ^ 40 := by rw [BitVec.toNat_not]; omega
  refine isNormalForm_of_neg hsign (sub_sub_cancel _ _) (by omega) ?_
  zify at hin hout hleft hnot
  rw [hlow]
  linear_combination 2 ^ 40 * hin + hout + 2 ^ 40 * hleft - 2 ^ 40 * 2 ^ lead (~~~low) * hnot

/-- R124 for a mantissa of ones: the remainder takes its place, by 40 bits and its own leading ones. -/
theorem isNormalForm_of_neg_remainder (hsign : a.m.getLsbD 40 = true) (hlow : ~~~a.m.setWidth 40 = 0)
    (hne : ~~~mr ≠ 0) :
    Normal.IsNormalForm
      { m := signBit ||| (mr <<< lead (~~~mr)).setWidth 42, e := a.e - 40 - lead (~~~mr), mr := 0, rr := rr } a mr := by
  obtain ⟨hc, hmin, hmax⟩ := lead_spec hne
  have hin : (mr <<< lead (~~~mr)).toNat = mr.toNat * 2 ^ lead (~~~mr) % 2 ^ 40 := by
    rw [BitVec.toNat_shiftLeft, Nat.shiftLeft_eq]
  have hleft := toNat_shiftLeft_of_not (x := mr) (by omega) hmax
  have hnot : (~~~mr).toNat + 1 + mr.toNat = 2 ^ 40 := by rw [BitVec.toNat_not]; omega
  have hunit := Nat.two_pow_pos (lead (~~~mr))
  refine isNormalForm_of_neg (s := 40 + lead (~~~mr)) hsign (by push_cast; ring) (by omega) ?_
  zify at hin hleft hnot
  rw [toNat_of_not_eq_zero hlow, BitVec.ofNat_eq_ofNat, BitVec.toNat_zero, pow_add]
  push_cast
  linear_combination 2 ^ 40 * hin + 2 ^ 40 * hleft - 2 ^ 40 * 2 ^ lead (~~~mr) * hnot

/-- R124 for ones in the mantissa and the remainder: the number -1 becomes the mantissa of the sign bit alone. -/
theorem isNormalForm_of_minus_one (hsign : a.m.getLsbD 40 = true) (hlow : ~~~a.m.setWidth 40 = 0) (hmr : ~~~mr = 0) :
    Normal.IsNormalForm { m := signBit, e := a.e - 80, mr := 0, rr := rr } a mr := by
  have hsignBit : signBit = signBit ||| (0 : BitVec 40).setWidth 42 := rfl
  rw [hsignBit]
  refine isNormalForm_of_neg (s := 80) hsign (sub_sub_cancel _ _) (by decide) ?_
  rw [toNat_of_not_eq_zero hlow, toNat_of_not_eq_zero hmr, BitVec.ofNat_eq_ofNat, BitVec.toNat_zero]
  norm_num

end arms

/-- Where the two top bits differ there is nothing to do (R124). -/
theorem normalize_of_normalized {a : Work} (h : a.m.getLsbD 40 ≠ a.m.getLsbD 39) (mr : BitVec 40) :
    normalize a mr = some { m := a.m, e := a.e, mr := mr, rr := false } := by
  unfold normalize
  cases h40 : a.m.getLsbD 40 with
  | false =>
    have h39 : a.m.getLsbD 39 = true := Bool.eq_true_of_not_eq_false fun h39 => h (h40.trans h39.symm)
    simp only [h39]
  | true =>
    have h39 : a.m.getLsbD 39 = false := Bool.eq_false_of_not_eq_true fun h39 => h (h40.trans h39.symm)
    simp only [h39]

theorem isNormalForm_of_normalized {a : Work} (h : a.m.getLsbD 40 ≠ a.m.getLsbD 39) (mr : BitVec 40) :
    Normal.IsNormalForm { m := a.m, e := a.e, mr := mr, rr := false } a mr :=
  ⟨le_rfl, by simp, h⟩

/-- What normalization can do (R124): the number is 0 and has no normal form, or it finds one. -/
theorem normalize_cases (a : Work) (mr : BitVec 40) :
    (normalize a mr = none ∧ scaled a.m mr = 0) ∨ ∃ n, normalize a mr = some n ∧ n.IsNormalForm a mr := by
  by_cases hdiff : a.m.getLsbD 40 ≠ a.m.getLsbD 39
  · exact .inr ⟨_, normalize_of_normalized hdiff mr, isNormalForm_of_normalized hdiff mr⟩
  have hsame : a.m.getLsbD 39 = a.m.getLsbD 40 := (not_not.1 hdiff).symm
  unfold normalize
  cases hsign : a.m.getLsbD 40 with
  | false =>
    simp only [hsame.trans hsign]
    split_ifs with hlow hmr
    · exact .inr ⟨_, rfl, isNormalForm_of_pos_mantissa hsign rfl hlow⟩
    · exact .inr ⟨_, rfl, isNormalForm_of_pos_remainder hsign (not_not.1 hlow) hmr⟩
    · rw [scaled_of_nonneg hsign, not_not.1 hlow, not_not.1 hmr]
      exact .inl ⟨rfl, rfl⟩
  | true =>
    simp only [hsame.trans hsign]
    split_ifs with hlow hmr
    · exact .inr ⟨_, rfl, isNormalForm_of_neg_mantissa hsign rfl hlow⟩
    · exact .inr ⟨_, rfl, isNormalForm_of_neg_remainder hsign (not_not.1 hlow) hmr⟩
    · exact .inr ⟨_, rfl, isNormalForm_of_minus_one hsign (not_not.1 hlow) (not_not.1 hmr)⟩

/-- Settles O33: the two cases of `normalize_cases`. -/
theorem normalizationIsExact : Obligations.NormalizationIsExact := by
  intro a mr value
  rcases normalize_cases a mr with ⟨hnone, hzero⟩ | ⟨n, hsome, hn⟩
  · rw [hnone]
    exact hzero
  · rw [hsome]
    exact ⟨hn.exponent_le, hn.scaled_eq, hn.normalized⟩

/-! ### NormRound (R124 to R126) -/

theorem getLsbD_pack (m : BitVec 42) (e : Int) {i : Nat} (hi : i < 41) : (pack m e).getLsbD i = m.getLsbD i := by
  rw [pack, BitVec.getLsbD_append, if_pos hi, BitVec.getLsbD_setWidth, decide_eq_true hi, Bool.true_and]

/-- Rounding touches no bit but the lowest. -/
theorem getLsbD_or_one (m : BitVec 42) {i : Nat} (hi : i ≠ 0) : (m ||| 1).getLsbD i = m.getLsbD i := by
  rw [BitVec.getLsbD_or]
  simp [hi]

theorem or_one_normalized {m : BitVec 42} (h : m.getLsbD 40 ≠ m.getLsbD 39) :
    (m ||| 1).getLsbD 40 ≠ (m ||| 1).getLsbD 39 := by
  rwa [getLsbD_or_one m (by omega), getLsbD_or_one m (by omega)]

/-- The mantissa after the round request (R124): the low bit is set unless rounding is disabled. -/
def rounded (rau : BitVec 6) (m : BitVec 42) (rq : Bool) : BitVec 42 := if !roundDisable rau && rq then m ||| 1 else m

theorem rounded_normalized {m : BitVec 42} (h : m.getLsbD 40 ≠ m.getLsbD 39) (rau : BitVec 6) (rq : Bool) :
    (rounded rau m rq).getLsbD 40 ≠ (rounded rau m rq).getLsbD 39 := by
  unfold rounded
  split_ifs
  · exact or_one_normalized h
  · exact h

theorem ne_zero_of_normalized {m : BitVec 42} (h : m.getLsbD 40 ≠ m.getLsbD 39) : m ≠ 0 := by
  rintro rfl
  exact h rfl

/-- `NormRound` on a normal form (R124, R125): underflow to zero, or the rounded mantissa packed. -/
theorem normRound_of_normal {rau : BitVec 6} {a : Work} {mr : BitVec 40} {n : Normal}
    (hn : (if normDisable rau then some { m := a.m, e := a.e, mr := mr, rr := false } else normalize a mr) = some n)
    (h : n.m.getLsbD 40 ≠ n.m.getLsbD 39) (rmr : Word) (rq : Bool) :
    normRound rau rmr a mr rq =
      if n.e < 0 then zeroOut rmr
      else { acc := pack (rounded rau n.m (rq && !n.rr)) n.e, rmr := keepUpper rmr n.mr,
             overflow := decide (128 ≤ n.e) && !ovfDisable rau } := by
  have hne := ne_zero_of_normalized (rounded_normalized h rau (rq && !n.rr))
  unfold normRound
  rw [hn]
  exact congrArg (ite _ _) (if_neg fun hzero => hne hzero.1)

/-- On a normalized operand whose exponent is in range `NormRound` only rounds and packs, whatever the modes. -/
theorem normRound_of_normalized {a : Work} (hlo : 0 ≤ a.e) (hhi : a.e < 128) (h : a.m.getLsbD 40 ≠ a.m.getLsbD 39)
    (rau : BitVec 6) (rmr : Word) (mr : BitVec 40) (rq : Bool) :
    normRound rau rmr a mr rq =
      { acc := pack (rounded rau a.m rq) a.e, rmr := keepUpper rmr mr, overflow := false } := by
  have hnormal := normRound_of_normal (rau := rau) (a := a) (mr := mr)
    (n := { m := a.m, e := a.e, mr := mr, rr := false }) (by rw [normalize_of_normalized h, ite_self]) h rmr rq
  rw [hnormal, if_neg (not_lt.2 hlo), decide_eq_false (not_le.2 hhi)]
  simp

/-- `NormRound` with normalization enabled ends in the arm ZERO or packs the rounded normal form. -/
theorem normRound_cases {rau : BitVec 6} (hnorm : normDisable rau = false) (rmr : Word) (a : Work) (mr : BitVec 40)
    (rq : Bool) :
    normRound rau rmr a mr rq = zeroOut rmr ∨ ∃ n : Normal, n.IsNormalForm a mr ∧
      (normRound rau rmr a mr rq).acc = pack (rounded rau n.m (rq && !n.rr)) n.e := by
  rcases normalize_cases a mr with ⟨hnone, -⟩ | ⟨n, hsome, hn⟩
  · left
    unfold normRound
    rw [hnorm, hnone]
    rfl
  · rw [normRound_of_normal (n := n) (by rw [hnorm, hsome]; rfl) hn.normalized]
    split_ifs
    · exact .inl rfl
    · exact .inr ⟨n, hn, rfl⟩

/-- Settles O31: `normRound_of_normalized`, on the operand and on its rounding. -/
theorem normRoundIsIdempotent : Obligations.NormRoundIsIdempotent := by
  intro rau rmr a mr hlo hhi h
  refine ⟨?_, fun hround => ?_⟩
  · rw [normRound_of_normalized hlo hhi h]
    simp [rounded]
  · have hset : ∀ m, rounded rau m true = m ||| 1 := fun m => by
      have henabled : roundDisable rau = false := hround
      simp [rounded, henabled]
    have hor := or_one_normalized h
    have hsecond := normRound_of_normalized (a := { m := a.m ||| 1, e := a.e }) hlo hhi hor rau rmr mr true
    rw [hsecond, normRound_of_normalized hlo hhi h, hset, hset]
    simp [BitVec.or_assoc]

/-- Settles O32: the two cases of `normRound_cases`; packing keeps the mantissa's top bits. -/
theorem resultsAreNormalized : Obligations.ResultsAreNormalized := by
  intro rau rmr a mr rq hnorm r
  rcases normRound_cases hnorm rmr a mr rq with hzero | ⟨n, hn, hacc⟩
  · left
    rw [show r = zeroOut rmr from hzero]
    exact ⟨rfl, rfl, rfl⟩
  · refine .inr ?_
    rw [show r.acc = _ from hacc, getLsbD_pack _ _ (by omega), getLsbD_pack _ _ (by omega)]
    exact rounded_normalized hn.normalized rau _

end Sys2Proof.Machine.Alu

/-!
PROOFS of the family of the engine cycle: the operand forms, one step as `exec` of the decoded half, the host's stops.
A load is described by the one part of the state it may change (`State.SameButOrder`); the pop form puts `Res.undoing`
around it.
-/
namespace Sys2Proof.Machine

/-! ### The operand forms (R157, R172) -/

theorem isStackForm_iff (reg : BitVec 4) (a : Addr) : isStackForm reg a = true ↔ reg = 0o17 ∧ a = 0 := by
  unfold isStackForm
  rw [Bool.and_eq_true, beq_iff_eq, beq_iff_eq]

theorem Res.andThen_ok {α : Type} (r : Res α) : (r.andThen fun x t => .ok x t) = r := by
  cases r <;> rfl

theorem Res.undoing_eq_ok {α : Type} {r : Res α} {d : Addr} {x : α} {t : State} :
    r.undoing d = .ok x t ↔ r = .ok x t := by
  cases r <;> simp [Res.undoing]

theorem Res.undoing_eq_raise {α : Type} {r : Res α} {d : Addr} {c : Cause} {t : State} :
    r.undoing d = .raise c t ↔ ∃ u, r = .raise c u ∧ u.setSp (u.sp + d) = t := by
  cases r <;> simp [Res.undoing, State.setSp]

theorem State.sp_setSp (s : State) (v : Addr) : (s.setSp v).sp = v :=
  s.getM_putM_same 0o17 v (by decide) (by decide)

/-- Putting the old stack pointer back undoes a change of it: what step 1 of the fault handler relies on (R310). -/
theorem State.setSp_undo (s : State) (v : Addr) : (s.setSp v).setSp s.sp = s := by
  have hm : (s.m.setIfInBounds 14 v).setIfInBounds 14 (s.m[14]?.getD 0) = s.m := by
    ext i hi
    by_cases h : 14 = i
    · subst h
      simp
    · simp [h]
  show { s with m := (s.m.setIfInBounds 14 v).setIfInBounds 14 (s.m[14]?.getD 0) } = s
  rw [hm]

/-- In the pop form the executive address is the decremented stack pointer itself. -/
theorem operandAt_pop {reg : BitVec 4} {a : Addr} (hpop : reg = 0o17 ∧ a = 0) (s : State) :
    operandAt reg a s = (memRead (s.sp - 1) (s.setSp (s.sp - 1))).undoing 1 := by
  obtain ⟨rfl, rfl⟩ := hpop
  have haddr : (s.setSp (s.sp - 1)).execAddr 0o17 0 = s.sp - 1 :=
    (BitVec.zero_add _).trans (s.sp_setSp _)
  unfold operandAt withOperand loadAt
  rw [if_pos ((isStackForm_iff _ _).2 ⟨rfl, rfl⟩), Res.andThen_ok, haddr]

theorem operandAt_plain {reg : BitVec 4} {a : Addr} (hplain : ¬ (reg = 0o17 ∧ a = 0)) (s : State) :
    operandAt reg a s = memRead (a + s.getM reg.toNat) s := by
  unfold operandAt withOperand loadAt
  rw [if_neg (mt (isStackForm_iff _ _).1 hplain), Res.andThen_ok]
  rfl

/-! ### The frame of a load (R160, R172) -/

/-- `t` is `s` but for the recency table of the write-back cache. -/
def State.SameButOrder (t s : State) : Prop := { t with cache := { t.cache with tabst := s.cache.tabst } } = s

theorem State.sameButOrder_of_promotion {s t : State} (h : t = s ∨ ∃ k, t = s.touch k) : t.SameButOrder s := by
  rcases h with rfl | ⟨k, rfl⟩ <;> rfl

theorem State.SameButOrder.sp_eq {s t : State} (h : t.SameButOrder s) : t.sp = s.sp :=
  have hsp : State.sp { t with cache := { t.cache with tabst := s.cache.tabst } } = s.sp := congrArg State.sp h
  hsp

theorem State.SameButOrder.setSp {s t : State} (h : t.SameButOrder s) (v : Addr) :
    (t.setSp v).SameButOrder (s.setSp v) :=
  congrArg (State.setSp · v) h

/-- A load at the decremented stack pointer, with the decrement undone, leaves the stack pointer as it was. -/
theorem State.SameButOrder.undo_pop {s t : State} (h : t.SameButOrder (s.setSp (s.sp - 1))) :
    (t.setSp (t.sp + 1)).SameButOrder s := by
  have hsp : t.sp + 1 = s.sp := by rw [h.sp_eq, s.sp_setSp, BitVec.sub_add_cancel]
  have hback := h.setSp s.sp
  rw [s.setSp_undo] at hback
  rwa [hsp]

theorem operandAt_ok_frame {reg : BitVec 4} {a : Addr} {s t : State} {x : Word} (h : s.Inv)
    (ho : operandAt reg a s = .ok x t) :
    t.SameButOrder (if reg = 0o17 ∧ a = 0 then s.setSp (s.sp - 1) else s) := by
  split_ifs with hpop
  · rw [operandAt_pop hpop, Res.undoing_eq_ok] at ho
    exact State.sameButOrder_of_promotion (memRead_ok (h.putM _ _) ho)
  · rw [operandAt_plain hpop] at ho
    exact State.sameButOrder_of_promotion (memRead_ok h ho)

theorem operandAt_raise_frame {reg : BitVec 4} {a : Addr} {s t : State} {c : Cause} (h : s.Inv)
    (ho : operandAt reg a s = .raise c t) : t.SameButOrder s := by
  by_cases hpop : reg = 0o17 ∧ a = 0
  · rw [operandAt_pop hpop, Res.undoing_eq_raise] at ho
    obtain ⟨u, hu, rfl⟩ := ho
    exact (State.sameButOrder_of_promotion (memRead_raise (h.putM _ _) hu)).undo_pop
  · rw [operandAt_plain hpop] at ho
    exact State.sameButOrder_of_promotion (memRead_raise h ho)

/-- Settles O35: the two forms, and the frame of a load that completes and of one that raises. -/
theorem operandForms : Obligations.OperandForms := fun _ _ s h =>
  ⟨fun hpop => operandAt_pop hpop s, fun hplain => operandAt_plain hplain s, fun _ _ => operandAt_ok_frame h,
    fun _ _ => operandAt_raise_frame h⟩

/-! ### One step (R150, R151) -/

/-- A fetch that passes the four tests of R78 gives the word found and updates the prefetch cache. -/
theorem fetchWord_ok {s : State} {a : Addr} (h : s.Inv) (ha : a ≠ 0)
    (hpage : s.sup = true ∨ s.pages.frame (pageOf a) ≠ 0) (hbreak : s.ibp ≠ s.fetchVariant a)
    (htag : (s.codeAt (s.fetchVariant a)).tag = TWord.instructionTag) :
    fetchWord a s =
      .ok (s.codeAt (s.fetchVariant a)).data { s with prefetch := s.prefetched (s.fetchVariant a) } := by
  have hpresent : ¬ (s.sup = false ∧ s.pages.frame (pageOf a) = 0) := by
    rintro ⟨huser, habsent⟩
    rcases hpage with hsup | hframe
    · exact absurd (hsup.symm.trans huser) (by decide)
    · exact hframe habsent
  rw [fetchWord_eq h, if_neg ha, if_neg hpresent, if_neg hbreak, if_pos htag]

/-- A cycle whose fetch completes executes the half that `RUU.RIGHT` selects (R151). -/
theorem step_of_fetchWord_ok {s t : State} {w : Word} (hrun : s.stopped = none) (hbreak : s.atBreakpoint = false)
    (hw : fetchWord s.beginCycle.pc s.beginCycle = .ok w t) : step s = exec (decode (t.selectHalf w)) t := by
  simp only [step, fetchHalf, hrun, hbreak, hw, Res.andThen, Option.isSome_none, Bool.false_eq_true, if_false]

/-- Settles O4: the fetch completes, and the half is selected by a field that the fetch leaves alone. -/
theorem stepRunsDecodedHalf : Obligations.StepRunsDecodedHalf := fun _ h hrun hstop hpc hpage hbreak htag =>
  step_of_fetchWord_ok hrun hstop (fetchWord_ok h.beginCycle hpc hpage hbreak htag)

/-! ### The host's stops (R330, R340) -/

theorem step_of_stopped {s : State} (h : s.stopped ≠ none) : step s = .next s :=
  if_pos (Option.isSome_iff_ne_none.2 h)

theorem step_of_atBreakpoint {s : State} (hrun : s.stopped = none) (hbreak : s.atBreakpoint = true) :
    step s = .next (s.stopWith .breakpoint) := by
  simp only [step, hrun, hbreak, Option.isSome_none, Bool.false_eq_true, if_false, if_true]

theorem State.atBreakpoint_of_resuming {s : State} (h : s.resuming = true) : s.atBreakpoint = false := by
  simp only [State.atBreakpoint, h, Bool.not_true, Bool.and_false]

theorem State.resume_of_breakpoint {s : State} (h : s.stopped = some .breakpoint) :
    s.resume = { s with stopped := none, resuming := true } := by
  simp only [State.resume, h, Option.isNone_some, Bool.false_eq_true, if_false, beq_self_eq_true]

theorem State.trapEntry_resuming (s : State) (vector : Addr) : (s.trapEntry vector).resuming = s.resuming := by
  simp [State.trapEntry]

/-- The top of the cycle uses up the resumption of a breakpoint stop. -/
theorem State.beginCycle_resuming (s : State) : s.beginCycle.resuming = false := by
  have hsummary : (State.summarise { s with resuming := false }).resuming = false := by
    unfold State.summarise
    split_ifs <;> rfl
  unfold State.beginCycle State.takeInterrupt
  split_ifs
  · rw [State.trapEntry_resuming, hsummary]
  · exact hsummary

/-- Settles O7: the two tests at the head of `step`, and what `resume` sets and the next cycle clears. -/
theorem hostStops : Obligations.HostStops := by
  refine ⟨fun s => step_of_stopped, fun s hrun hmember hfresh => ?_, fun s hstop => ?_⟩
  · have hbreak : s.atBreakpoint = true := by
      simp only [State.atBreakpoint, hmember, hfresh, Bool.not_false, Bool.and_true]
    exact step_of_atBreakpoint hrun hbreak
  · have hresume := State.resume_of_breakpoint hstop
    exact ⟨hresume, State.atBreakpoint_of_resuming (by rw [hresume]), s.resume.beginCycle_resuming⟩

end Sys2Proof.Machine

/-!
PROOFS of the family of the memory, arithmetic and logical instructions. An instruction with an operand in memory ends in
one of three ways, with one lemma for each: it completes, it raises after the load, the load raises. The store
instructions are read through what a data access may change (`State.SameButData`).
-/
namespace Sys2Proof.Machine

/-! ### An instruction with an operand in memory (R172) -/

section operand
variable {reg : BitVec 4} {addr : Addr} {s u v : State} {x : Word} {z : Cause} {rest : Word → State → Res Flow}

/-- The operand loads and the rest completes. -/
theorem runOperand_seq (h : s.Inv) (ho : operandAt reg (s.modified addr) s = .ok x u)
    (hrest : rest x (u.stepOver s.lookahead) = .ok .seq (v.stepOver s.lookahead)) (hpc : v.pc = u.pc)
    (hruu : v.ruu = u.ruu) : runOperand reg addr s rest = .next (v.seqEnd s.lookahead) := by
  obtain ⟨hpc', hruu'⟩ := operandAt_frame h ho
  refine runHalf_seq h addr _ v ?_ (hpc.trans hpc') (State.right_congr (hruu.trans hruu'))
  rw [withOperand_ok _ _ ho, hrest]
  exact ite_self _

/-- The operand loads and the rest raises: the pop form's decrement is undone (R157). -/
theorem runOperand_raise (h : s.Inv) (ho : operandAt reg (s.modified addr) s = .ok x u)
    (hrest : rest x (u.stepOver s.lookahead) = .raise z (v.stepOver s.lookahead)) :
    runOperand reg addr s rest = .next ((v.unpopped reg (s.modified addr)).faultEnd s.lookahead z) := by
  refine runHalf_raise h addr _ _ z ?_
  rw [withOperand_ok _ _ ho, hrest]
  unfold State.unpopped
  split_ifs
  · simp only [Res.undoing, State.setSp, State.sp_stepOver, State.putM_stepOver]
  · rfl

/-- The load of the operand raises. -/
theorem runOperand_loadRaise (h : s.Inv) (ho : operandAt reg (s.modified addr) s = .raise z u) :
    runOperand reg addr s rest = .next (u.faultEnd s.lookahead z) :=
  runHalf_raise h addr _ u z (withOperand_raise _ _ ho)

section arith
variable {r : Alu.Out} {cls : BitVec 6} (h : s.Inv) (ho : operandAt reg (s.modified addr) s = .ok x u)
  (hrest : rest x (u.stepOver s.lookahead) = arithEnd r (State.setClass · cls) (u.stepOver s.lookahead))
include h ho hrest

/-- The operand loads and the rest is an arithmetic result that does not overflow: the class becomes `cls` (R172). -/
theorem runOperand_arith_fits (hfits : r.overflow = false) :
    runOperand reg addr s rest =
      .next ({ u with acc := r.acc, rmr := r.rmr, rau := (u.rau &&& 0o43) ||| cls }.seqEnd s.lookahead) := by
  refine runOperand_seq h ho ?_ rfl rfl
  rw [hrest, arithEnd, writeAlu, hfits]
  rfl

/-- The same where it overflows: the result is written and the class is not (R125 (c)). -/
theorem runOperand_arith_overflow (hover : r.overflow = true) :
    runOperand reg addr s rest =
      .next ((State.unpopped { u with acc := r.acc, rmr := r.rmr } reg (s.modified addr)).faultEnd s.lookahead
        .overflow) := by
  refine runOperand_raise h ho ?_
  rw [hrest, arithEnd, writeAlu, hover]
  rfl

end arith

end operand

/-- An instruction whose rest is an arithmetic result that does not depend on the advance. -/
theorem arithRule_of {i : BitVec 4 → Addr → Instr} {result : Word → State → Alu.Out} {cls : BitVec 6}
    (hi : ∀ reg addr s, exec (i reg addr) s =
      runOperand reg addr s fun x t => arithEnd (result x t) (State.setClass · cls) t)
    (hresult : ∀ x u c, result x (u.stepOver c) = result x u) : ArithRule i result cls := by
  intro reg addr s h
  rw [hi]
  refine ⟨fun x u ho => ?_, fun c u => runOperand_loadRaise h⟩
  have hrest := congrArg (arithEnd · (State.setClass · cls) (u.stepOver s.lookahead)) (hresult x u s.lookahead)
  exact ⟨runOperand_arith_fits h ho hrest, runOperand_arith_overflow h ho hrest⟩

/-- An instruction whose rest is one effect that neither depends on the advance nor changes PC or RUU. -/
theorem operandRule_of_effect {i : BitVec 4 → Addr → Instr} {effect : Word → State → State}
    (hi : ∀ reg addr s, exec (i reg addr) s = runOperand reg addr s fun x t => .ok .seq (effect x t))
    (hover : ∀ x u c, effect x (u.stepOver c) = (effect x u).stepOver c)
    (hframe : ∀ x u, (effect x u).pc = u.pc ∧ (effect x u).ruu = u.ruu) : OperandRule i effect :=
  operandRule_of hi (fun x u c => congrArg (Res.ok Flow.seq) (hover x u c)) (fun x u => (hframe x u).1)
    fun x u => (hframe x u).2

/-! ### Logical, bit and shift instructions -/

/-- Settles O36: each effect is on ACC, RMR and RAU alone. -/
theorem loadAndLogic : Obligations.LoadAndLogic := by
  refine ⟨?xta, ?aax, ?aex, ?aox⟩
  all_goals exact operandRule_of_effect (fun _ _ _ => rfl) (fun _ _ _ => rfl) fun _ _ => ⟨rfl, rfl⟩

/-- The two arms of `anx`, ACC zero or not, as one effect (R203). -/
theorem exec_anx (reg : BitVec 4) (addr : Addr) (s : State) :
    exec (.anx reg addr) s = runOperand reg addr s fun x t => .ok .seq
      { t with
        acc := if t.acc = 0 then x else Alu.cyclicAdd (BitVec.ofNat 48 (Alu.highestBit t.acc)) x
        rmr := if t.acc = 0 then 0 else (Alu.shift (48 - Alu.highestBit t.acc) t.acc).2
        rau := (t.rau &&& 0o43) ||| 0o04 } := by
  show runOperand reg addr s _ = _
  congr 1
  funext x t
  by_cases h0 : t.acc = 0
  · simp only [h0, if_true]
    rfl
  · simp only [h0, if_false]
    rfl

/-- Settles O37: as `loadAndLogic`, with the two arms of `anx` joined first. -/
theorem bitAndShiftByOperand : Obligations.BitAndShiftByOperand := by
  refine ⟨?arx, ?apx, ?aux, ?acx, ?anx, ?asx, ?xtr⟩
  case anx => exact operandRule_of_effect exec_anx (fun _ _ _ => rfl) fun _ _ => ⟨rfl, rfl⟩
  all_goals exact operandRule_of_effect (fun _ _ _ => rfl) (fun _ _ _ => rfl) fun _ _ => ⟨rfl, rfl⟩

/-! ### Arithmetic instructions -/

/-- Settles O38: the four pre-negations of one addition. -/
theorem addAndSubtract : Obligations.AddAndSubtract := by
  refine ⟨?aPlusX, ?aMinusX, ?xMinusA, ?amx⟩
  all_goals exact arithRule_of (fun _ _ _ => rfl) fun _ _ _ => rfl

/-- The count of `e-x` (R205). -/
theorem neg_operandConst (x : Word) : -operandConst x = 64 - (x.extractLsb' 41 7).toNat := Int.neg_sub _ _

/-- Settles O39: `e-x` moves the exponent by the negated operand count. -/
theorem signAndExponentByOperand : Obligations.SignAndExponentByOperand := by
  refine ⟨?avx, ?ePlusX, ?eMinusX⟩
  case eMinusX =>
    refine arithRule_of (fun reg addr s => ?_) fun _ _ _ => rfl
    simp only [← neg_operandConst]
    rfl
  all_goals exact arithRule_of (fun _ _ _ => rfl) fun _ _ _ => rfl

/-- The test that `a/x` makes of its divisor (R131). -/
theorem denormalized_iff (x : Word) : Alu.denormalized x = true ↔ x.getLsbD 40 = x.getLsbD 39 := beq_iff_eq

/-- `a/x` tests the divisor before it computes (R184). -/
theorem exec_aDivX (reg : BitVec 4) (addr : Addr) (s : State) :
    exec (.aDivX reg addr) s = runOperand reg addr s fun x t =>
      if Alu.denormalized x then .raise .divZero t
      else arithEnd (Alu.divide t.rau t.acc t.rmr x) State.setMultiplicative t := rfl

/-- Settles O40: `a*x` as an arithmetic rule, its zero short cut, and the three ends of `a/x` after the load. -/
theorem multiplyAndDivide : Obligations.MultiplyAndDivide := by
  refine ⟨arithRule_of (fun _ _ _ => rfl) fun _ _ _ => rfl, fun _ _ _ _ hzero => if_pos hzero, fun reg addr s h => ?_⟩
  rw [exec_aDivX]
  refine ⟨fun x u ho => ⟨fun hx => ?divZero, fun hx hfits => ?fits, fun hx hover => ?overflow⟩,
    fun c u => runOperand_loadRaise h⟩
  case divZero => exact runOperand_raise h ho (if_pos ((denormalized_iff x).2 hx))
  case fits => exact runOperand_arith_fits h ho (if_neg (mt (denormalized_iff x).1 hx)) hfits
  case overflow => exact runOperand_arith_overflow h ho (if_neg (mt (denormalized_iff x).1 hx)) hover

/-! ### What a data access may change -/

/-- `t` is `s` but for memory, the write-back cache and the draw counter. -/
def State.SameButData (t s : State) : Prop := ∃ m c d, t = { s with mem := m, cache := c, draws := d }

theorem State.sameButData_of_promotion {s t : State} (h : t = s ∨ ∃ k, t = s.touch k) : t.SameButData s := by
  rcases h with rfl | ⟨k, rfl⟩ <;> exact ⟨_, _, _, rfl⟩

theorem memWrite_ok_frame {s t : State} {a : Addr} {v : Word} (h : s.Inv) (hw : memWrite a v s = .ok () t) :
    t.SameButData s := by
  rcases memWrite_ok h hw with ⟨-, rfl⟩ | ⟨-, rfl⟩
  · exact ⟨_, _, _, rfl⟩
  · exact s.stored_frame a v

/-- A store that raises changes nothing (R64, R160 (d)). -/
theorem memWrite_raise {s t : State} {a : Addr} {v : Word} {c : Cause} (h : s.Inv)
    (hw : memWrite a v s = .raise c t) : t = s := by
  rw [memWrite_eq h] at hw
  split_ifs at hw
  cases hf : s.dataFault true a with
  | none => rw [hf] at hw; cases hw
  | some d => rw [hf] at hw; cases hw; rfl

namespace State.SameButData
variable {s t : State} (h : t.SameButData s)
include h

theorem pc_eq : t.pc = s.pc := by
  obtain ⟨m, c, d, rfl⟩ := h
  rfl

theorem ruu_eq : t.ruu = s.ruu := by
  obtain ⟨m, c, d, rfl⟩ := h
  rfl

theorem rau_eq : t.rau = s.rau := by
  obtain ⟨m, c, d, rfl⟩ := h
  rfl

theorem sp_eq : t.sp = s.sp := by
  obtain ⟨m, c, d, rfl⟩ := h
  rfl

end State.SameButData

/-! ### The store of ACC (R170) -/

section store
variable {α : Type} {b : Addr} {s u : State} {k : Unit → State → Res α}

/-- Where a store of ACC after the advance completes, the rest runs at the state it leaves. -/
theorem storeAcc_ok (h : s.Inv) (hw : memWrite b s.acc s = .ok () u) :
    (memWrite b s.acc (s.stepOver s.lookahead)).andThen k = k () (u.stepOver s.lookahead) := by
  rw [memWrite_stepOver h _ h.stepOver_lookahead, hw]
  rfl

theorem storeAcc_raise {z : Cause} (h : s.Inv) (hw : memWrite b s.acc s = .raise z u) :
    (memWrite b s.acc (s.stepOver s.lookahead)).andThen k = .raise z (s.stepOver s.lookahead) := by
  rw [memWrite_stepOver h _ h.stepOver_lookahead, hw, memWrite_raise h hw]
  rfl

end store

/-! The push form (R157). -/

theorem State.pushed_eq (s : State) (reg : BitVec 4) (a : Addr) :
    s.pushed reg a = if reg = 0o17 ∧ a = 0 then s.setSp (s.sp + 1) else s := by
  simp only [State.pushed, isStackForm_iff]

theorem State.pushed_stepOver (s : State) (c : Prefetch) (reg : BitVec 4) (a : Addr) :
    (s.stepOver c).pushed reg a = (s.pushed reg a).stepOver c := by
  unfold State.pushed State.setSp
  rw [State.sp_stepOver, State.putM_stepOver]
  split_ifs <;> rfl

theorem State.pushed_pc (s : State) (reg : BitVec 4) (a : Addr) : (s.pushed reg a).pc = s.pc := by
  unfold State.pushed State.setSp
  split_ifs <;> simp

theorem State.pushed_ruu (s : State) (reg : BitVec 4) (a : Addr) : (s.pushed reg a).ruu = s.ruu := by
  unfold State.pushed State.setSp
  split_ifs <;> simp

/-- `atx` is one store and the push form's increment (R170). -/
theorem exec_atx (reg : BitVec 4) (addr : Addr) (s : State) :
    exec (.atx reg addr) s = runHalf addr s fun a t =>
      (memWrite (t.execAddr reg a) t.acc t).andThen fun _ u => .ok .seq (u.pushed reg a) := rfl

/-- Settles O44: the store leaves the stack pointer alone, so the push form increments the old one. -/
theorem storeAccumulator : Obligations.StoreAccumulator := by
  intro reg addr s h
  rw [exec_atx]
  refine ⟨fun u hw => ?_, fun c u hw => runHalf_raise h addr _ s c (storeAcc_raise h hw)⟩
  have hframe := memWrite_ok_frame h hw
  have hpushed : u.pushed reg (s.modified addr) =
      if reg = 0o17 ∧ s.modified addr = 0 then u.putM 0o17 (s.getM 0o17 + 1) else u :=
    (u.pushed_eq _ _).trans (by rw [hframe.sp_eq]; rfl)
  rw [← hpushed]
  refine runHalf_seq h addr _ _ ?_ ((u.pushed_pc _ _).trans hframe.pc_eq)
    (State.right_congr ((u.pushed_ruu _ _).trans hframe.ruu_eq))
  exact (storeAcc_ok h hw).trans (congrArg (Res.ok Flow.seq) (u.pushed_stepOver _ _ _))

/-! ### The second access of `stx` and `xts` (R171, R173) -/

/-- Load ACC at `b` and set the logical class, with `corr_stack = d`: how `stx` and `xts` end after the store. -/
def loadAcc (b d : Addr) (s : State) : Res Flow :=
  ((memRead b s).andThen fun x t => .ok .seq { t with acc := x }.setLogical).undoing d

section loadAcc
variable {addr q b d p : Addr} {s u v : State} {x : Word} {z : Cause} {body : Addr → State → Res Flow} (h : s.Inv)
  (hw : memWrite q s.acc s = .ok () u)
  (hbody : body (s.modified addr) (s.stepOver s.lookahead) = loadAcc b d ((u.setSp p).stepOver s.lookahead))
include h hw hbody

/-- The instruction stored ACC, which left `u`, and moved the stack pointer to `p`; the load completes. -/
theorem runHalf_loadAcc_ok (hload : memRead b (u.setSp p) = .ok x v) :
    runHalf addr s body = .next ({ v with acc := x, rau := (s.rau &&& 0o43) ||| 0o04 }.seqEnd s.lookahead) := by
  have hframe := memWrite_ok_frame h hw
  have hv : v.SameButData (u.setSp p) :=
    State.sameButData_of_promotion (memRead_ok ((memWrite_inv h hw).putM _ _) hload)
  have hrau : v.rau = s.rau := hv.rau_eq.trans ((u.putM_rau _ _).trans hframe.rau_eq)
  have hpc : v.pc = s.pc := hv.pc_eq.trans ((u.putM_pc _ _).trans hframe.pc_eq)
  have hruu : v.ruu = s.ruu := hv.ruu_eq.trans ((u.putM_ruu _ _).trans hframe.ruu_eq)
  refine runHalf_seq h addr body _ ?_ hpc (State.right_congr hruu)
  rw [hbody, loadAcc, memRead_stepOver, hload, ← hrau]
  rfl

/-- The same where the load raises: the stack pointer is what it was before the instruction. -/
theorem runHalf_loadAcc_raise (hp : p + d = s.sp) (hload : memRead b (u.setSp p) = .raise z v) :
    runHalf addr s body = .next ((v.setSp s.sp).faultEnd s.lookahead z) := by
  have hv : v.SameButData (u.setSp p) :=
    State.sameButData_of_promotion (memRead_raise ((memWrite_inv h hw).putM _ _) hload)
  have hsp : v.sp + d = s.sp := by rw [hv.sp_eq, State.sp_setSp, hp]
  refine runHalf_raise h addr body _ z ?_
  rw [hbody, loadAcc, memRead_stepOver, hload, ← hsp]
  exact congrArg (Res.raise z) (State.putM_stepOver _ _ _ _)

end loadAcc

/-- `stx` is one store and `loadAcc` at the decremented stack pointer (R171). -/
theorem exec_stx (reg : BitVec 4) (addr : Addr) (s : State) :
    exec (.stx reg addr) s = runHalf addr s fun a t =>
      (memWrite (t.execAddr reg a) t.acc t).andThen fun _ u => loadAcc (u.sp - 1) 1 (u.setSp (u.sp - 1)) := rfl

/-- `xts` is one push and `loadAcc` at an address formed after it (R173). -/
theorem exec_xts (reg : BitVec 4) (addr : Addr) (s : State) :
    exec (.xts reg addr) s = runHalf addr s fun a t =>
      (pushAcc t).andThen fun _ u => loadAcc (u.execAddr reg a) (-1) u := rfl

section stack
variable {s u : State}

theorem pushAcc_ok (h : s.Inv) (hw : memWrite s.sp s.acc s = .ok () u) :
    pushAcc (s.stepOver s.lookahead) = .ok () ((u.setSp (s.sp + 1)).stepOver s.lookahead) := by
  rw [pushAcc, State.sp_stepOver, State.stepOver_acc, storeAcc_ok h hw, State.sp_stepOver,
    (memWrite_ok_frame h hw).sp_eq, State.setSp, State.putM_stepOver]
  rfl

theorem pushAcc_raise {z : Cause} (h : s.Inv) (hw : memWrite s.sp s.acc s = .raise z u) :
    pushAcc (s.stepOver s.lookahead) = .raise z (s.stepOver s.lookahead) := by
  rw [pushAcc, State.sp_stepOver, State.stepOver_acc, storeAcc_raise h hw]

end stack

/-- Settles O45: a store, then `loadAcc` with the stack pointer one down (`stx`) or one up (`xts`). -/
theorem stackExchange : Obligations.StackExchange := by
  intro reg addr s h
  rw [exec_stx, exec_xts]
  refine ⟨fun u hw => ?stx, fun c u hw => runHalf_raise h addr _ s c (storeAcc_raise h hw), fun u hw => ?xts,
    fun c u hw => runHalf_raise h addr _ s c ?xtsRaise⟩
  case stx =>
    have hbody : ((memWrite (s.modified addr + s.getM reg.toNat) s.acc (s.stepOver s.lookahead)).andThen fun _ t =>
        loadAcc (t.sp - 1) 1 (t.setSp (t.sp - 1))) =
        loadAcc (s.sp - 1) 1 ((u.setSp (s.sp - 1)).stepOver s.lookahead) := by
      rw [storeAcc_ok h hw, State.sp_stepOver, (memWrite_ok_frame h hw).sp_eq, State.setSp, State.putM_stepOver]
      rfl
    have hback : s.sp - 1 + 1 = s.sp := BitVec.sub_add_cancel _ _
    exact ⟨fun x v => runHalf_loadAcc_ok h hw hbody, fun c v => runHalf_loadAcc_raise h hw hbody hback⟩
  case xts =>
    have hbody : ((pushAcc (s.stepOver s.lookahead)).andThen fun _ t =>
        loadAcc (t.execAddr reg (s.modified addr)) (-1) t) =
        loadAcc ((u.setSp (s.sp + 1)).execAddr reg (s.modified addr)) (-1)
          ((u.setSp (s.sp + 1)).stepOver s.lookahead) := by
      rw [pushAcc_ok h hw]
      rfl
    have hback : s.sp + 1 + -1 = s.sp := by bv_omega
    exact ⟨fun x v => runHalf_loadAcc_ok h hw hbody, fun c v => runHalf_loadAcc_raise h hw hbody hback⟩
  case xtsRaise =>
    exact congrArg (Res.andThen · _) (pushAcc_raise h hw)

end Sys2Proof.Machine

/-!
PROOFS of the family of the shift and mode instructions that take a constant from the address. None has an operand in
memory: each is one effect on ACC, RMR and RAU, or one result of the Arithmetic Unit that may overflow.
-/
namespace Sys2Proof.Machine

/-! ### The remainder of `AddExponent` (R124, R135) -/

namespace Alu

/-- Normalization finds no bits for the remainder where there were none (R124). -/
theorem normalize_mr_of_zero {a : Work} {n : Normal} (h : normalize a 0 = some n) : n.mr = 0 := by
  by_cases hdiff : a.m.getLsbD 40 ≠ a.m.getLsbD 39
  · rw [normalize_of_normalized hdiff] at h
    cases h
    rfl
  -- The top bits agree: the mantissa is shifted, and an empty remainder shifts in zeros only.
  have hsame : a.m.getLsbD 39 = a.m.getLsbD 40 := (not_not.1 hdiff).symm
  unfold normalize at h
  cases hsign : a.m.getLsbD 40 with
  | false =>
    simp only [hsame.trans hsign, hsign] at h
    split_ifs at h
    · cases h
      exact BitVec.zero_shiftLeft _
    · exact absurd rfl ‹(0 : BitVec 40) ≠ 0›
  | true =>
    simp only [hsame.trans hsign, hsign] at h
    split_ifs at h
    · cases h
      exact BitVec.zero_shiftLeft _
    · cases h
      rfl
    · cases h
      rfl

/-- Every arm of `NormRound` leaves a cleared RMR clear where there is no remainder. -/
theorem normRound_rmr_of_zero (rau : BitVec 6) (a : Work) (rq : Bool) : (normRound rau 0 a 0 rq).rmr = 0 := by
  have hmr : ∀ n, (if normDisable rau then some { m := a.m, e := a.e, mr := 0, rr := false } else normalize a 0) =
      some n → n.mr = 0 := by
    intro n hn
    split_ifs at hn
    · cases hn
      rfl
    · exact normalize_mr_of_zero hn
  unfold normRound
  split
  case h_1 => rfl
  case h_2 n hn =>
    rw [hmr n hn]
    dsimp only
    split_ifs <;> rfl

/-- `AddExponent` clears RMR, whether it overflows or not. -/
theorem addExponent_rmr (rau : BitVec 6) (acc : Word) (k : Int) : (addExponent rau acc k).rmr = 0 :=
  normRound_rmr_of_zero _ _ _

end Alu

/-! ### An instruction that is one effect, or one arithmetic result -/

/-- An instruction whose meaning is one effect that neither depends on the advance nor changes PC or RUU. -/
theorem plainRule_of_effect {i : BitVec 4 → Addr → Instr} {effect : BitVec 4 → Addr → State → State}
    (hi : ∀ reg addr s, exec (i reg addr) s = runHalf addr s fun a t => .ok .seq (effect reg a t))
    (hover : ∀ reg a s c, effect reg a (s.stepOver c) = (effect reg a s).stepOver c)
    (hframe : ∀ reg a s, (effect reg a s).pc = s.pc ∧ (effect reg a s).ruu = s.ruu) : PlainRule i effect := by
  intro reg addr s h
  obtain ⟨hpc, hruu⟩ := hframe reg (s.modified addr) s
  rw [hi]
  exact runHalf_seq h addr _ _ (congrArg (Res.ok Flow.seq) (hover _ _ _ _)) hpc (State.right_congr hruu)

section arith
variable {addr : Addr} {s v : State} {r : Alu.Out} {setter : State → State} {body : Addr → State → Res Flow} (h : s.Inv)
  (hbody : body (s.modified addr) (s.stepOver s.lookahead) = arithEnd r setter (s.stepOver s.lookahead))
include h hbody

/-- The result does not overflow: it is written, and the setter ends the instruction (R172). -/
theorem runHalf_arithEnd_fits (hfits : r.overflow = false)
    (hset : setter ({ s with acc := r.acc, rmr := r.rmr }.stepOver s.lookahead) = v.stepOver s.lookahead)
    (hpc : v.pc = s.pc) (hruu : v.ruu = s.ruu) : runHalf addr s body = .next (v.seqEnd s.lookahead) := by
  refine runHalf_seq h addr body v ?_ hpc (State.right_congr hruu)
  rw [hbody, ← hset, arithEnd, writeAlu, hfits]
  rfl

/-- It overflows: it is written, and the setter does not run (R125 (c)). -/
theorem runHalf_arithEnd_overflow (hover : r.overflow = true) :
    runHalf addr s body = .next ({ s with acc := r.acc, rmr := r.rmr }.faultEnd s.lookahead .overflow) := by
  refine runHalf_raise h addr body _ .overflow ?_
  rw [hbody, arithEnd, writeAlu, hover]
  rfl

end arith

/-! ### `e+n`, `e-n` (R218, R219) -/

theorem exec_ePlusN (reg : BitVec 4) (addr : Addr) (s : State) :
    exec (.ePlusN reg addr) s = runHalf addr s fun a t =>
      arithEnd (Alu.addExponent t.rau t.acc (smallConst (t.execAddr reg a))) State.setMultiplicative t := rfl

theorem exec_eMinusN (reg : BitVec 4) (addr : Addr) (s : State) :
    exec (.eMinusN reg addr) s = runHalf addr s fun a t =>
      arithEnd (Alu.addExponent t.rau t.acc (-smallConst (t.execAddr reg a))) State.setMultiplicative t := rfl

/-- Settles O41: two results of `AddExponent`, each with its two ends. -/
theorem exponentByConstant : Obligations.ExponentByConstant := by
  intro reg addr s h
  rw [exec_ePlusN, exec_eMinusN]
  exact ⟨fun hfits => runHalf_arithEnd_fits h rfl hfits rfl rfl rfl, fun hover => runHalf_arithEnd_overflow h rfl hover,
    fun hfits => runHalf_arithEnd_fits h rfl hfits rfl rfl rfl, fun hover => runHalf_arithEnd_overflow h rfl hover⟩

/-! ### `asn`, `rte`, `ntr` (R215, R220, R222) -/

/-- The six bits of RAU at the exponent field of ACC, under a clear top bit (R215). -/
theorem exponentField_eq_shiftLeft (x : BitVec 6) : (0#1 ++ x ++ 0#41 : Word) = x.setWidth 48 <<< 41 := by
  have hx := x.isLt
  apply BitVec.eq_of_toNat_eq
  rw [toNat_append_eq, toNat_append_eq, BitVec.toNat_shiftLeft, BitVec.toNat_setWidth, Nat.shiftLeft_eq]
  simp only [BitVec.toNat_ofNat]
  omega

/-- An update of ACC and RAU commutes with the advance. -/
theorem State.setAccRau_stepOver (s : State) (c : Prefetch) (acc : Word) (rau : BitVec 6) :
    { s.stepOver c with acc := acc, rau := rau } = { s with acc := acc, rau := rau }.stepOver c := rfl

/-- The meaning of `rte` with the field written as a shift (R215). -/
theorem exec_rte (reg : BitVec 4) (addr : Addr) (s : State) :
    exec (.rte reg addr) s = runHalf addr s fun a t => .ok .seq
      { t with
        acc := ((t.rau &&& (a + t.getM reg.toNat).extractLsb' 0 6).setWidth 48) <<< 41
        rau := (t.rau &&& 0o43) ||| 0o04 } := by
  simp only [← exponentField_eq_shiftLeft]
  rfl

/-- Settles O42: each effect is on ACC, RMR and RAU alone. -/
theorem constantShiftAndModes : Obligations.ConstantShiftAndModes := by
  refine ⟨?asn, ?rte, ?ntr⟩
  case rte =>
    exact plainRule_of_effect exec_rte (fun _ _ _ _ => State.setAccRau_stepOver _ _ _ _) fun _ _ _ => ⟨rfl, rfl⟩
  all_goals exact plainRule_of_effect (fun _ _ _ => rfl) (fun _ _ _ _ => rfl) fun _ _ _ => ⟨rfl, rfl⟩

/-! ### `yta` (R216) -/

theorem isLogical_iff (rau : BitVec 6) : isLogical rau = true ↔ rau.extractLsb' 2 3 = 1 := beq_iff_eq

/-- The low 40 bits of RMR as a positive mantissa under the exponent of ACC: what `yta` normalizes (R216). -/
def State.joined (s : State) : Word := s.acc.extractLsb' 41 7 ++ 0#1 ++ s.rmr.extractLsb' 0 40

/-- Outside the logical class `yta` ends as an arithmetic instruction whose setter restores RMR (R216). -/
theorem exec_yta (reg : BitVec 4) (addr : Addr) (s : State) :
    exec (.yta reg addr) s = runHalf addr s fun a t =>
      if isLogical t.rau then .ok .seq { t with acc := t.rmr }
      else arithEnd (Alu.addExponent t.rau t.joined (smallConst (t.execAddr reg a)))
        (fun u => { u with rmr := t.rmr }) t := rfl

/-- Settles O43: the class selects the branch; `AddExponent` leaves RMR zero, and an overflow skips its restoration. -/
theorem readRemainder : Obligations.ReadRemainder := by
  intro reg addr s h n r
  rw [exec_yta]
  refine ⟨fun hlogical => ?logical, fun hother hfits => ?fits, fun hother hover => ?overflow⟩
  case logical =>
    exact runHalf_seq h addr _ { s with acc := s.rmr } (if_pos ((isLogical_iff _).2 hlogical)) rfl rfl
  case fits =>
    exact runHalf_arithEnd_fits h (if_neg (mt (isLogical_iff _).1 hother)) hfits rfl rfl rfl
  case overflow =>
    have hrmr : r.rmr = 0 := Alu.addExponent_rmr _ _ _
    refine ⟨hrmr, ?_⟩
    rw [← hrmr]
    exact runHalf_arithEnd_overflow h (if_neg (mt (isLogical_iff _).1 hother)) hover

end Sys2Proof.Machine

/-!
PROOFS of the family of the index-register and address-modifier instructions. Most of them end in one write to M
(`runHalf_putM`); `its` and `ita` share the read of a register into ACC, and `sti` ends alike after either of its loads.
-/
namespace Sys2Proof.Machine

/-! ### Instructions that end in one write to M -/

/-- The instruction's own part is one write to M. -/
theorem runHalf_putM {s : State} (h : s.Inv) {addr : Addr} {body : Addr → State → Res Flow} {r : Nat} {v : Addr}
    (hbody : body (s.modified addr) (s.stepOver s.lookahead) = .ok .seq ((s.stepOver s.lookahead).putM r v)) :
    runHalf addr s body = .next ((s.putM r v).seqEnd s.lookahead) :=
  runHalf_seq h addr body _ (hbody.trans (congrArg (Res.ok Flow.seq) (s.putM_stepOver _ r v))) (s.putM_pc r v)
    (s.right_putM r v)

/-- An instruction whose meaning is one write to M, where neither the number nor the value depends on the advance. -/
theorem plainRule_of_putM {i : BitVec 4 → Addr → Instr} {r : BitVec 4 → Addr → State → Nat}
    {v : BitVec 4 → Addr → State → Addr}
    (hi : ∀ reg addr s, exec (i reg addr) s = runHalf addr s fun a t => .ok .seq (t.putM (r reg a t) (v reg a t)))
    (hr : ∀ reg a s c, r reg a (s.stepOver c) = r reg a s) (hv : ∀ reg a s c, v reg a (s.stepOver c) = v reg a s) :
    PlainRule i fun reg a s => s.putM (r reg a s) (v reg a s) := by
  intro reg addr s h
  rw [hi]
  exact runHalf_putM h (by rw [hr, hv])

/-- The register that the low four bits of an address name (R235 to R237). -/
theorem toNat_lowFour (a : Addr) : (a.extractLsb' 0 4).toNat = a.toNat % 16 := by simp

/-- In supervisor mode nothing is refused, before the advance or after it. -/
theorem supervisorOnly_stepOver {s : State} (hsup : s.sup = true) (c : Prefetch) (r : Res Flow) :
    supervisorOnly (s.stepOver c) r = r :=
  if_pos ((s.sup_stepOver c).trans hsup)

theorem exec_op46 (reg : BitVec 4) (addr : Addr) (s : State) :
    exec (.op46 reg addr) s = runHalf addr s fun a t =>
      supervisorOnly t (.ok .seq (t.putM (a.extractLsb' 0 4).toNat a)) := rfl

theorem exec_op47 (reg : BitVec 4) (addr : Addr) (s : State) :
    exec (.op47 reg addr) s = runHalf addr s fun a t =>
      supervisorOnly t (.ok .seq (t.putM (a.extractLsb' 0 4).toNat (t.getM (a.extractLsb' 0 4).toNat + a))) := rfl

/-- Settles O49: past the test of the mode, each is one write to the register that the low four bits name. -/
theorem registerFromOwnAddress : Obligations.RegisterFromOwnAddress := by
  intro reg addr s h hsup a j
  have hj : (a.extractLsb' 0 4).toNat = j := toNat_lowFour a
  rw [exec_op46, exec_op47, ← hj]
  exact ⟨runHalf_putM h (supervisorOnly_stepOver hsup _ _), runHalf_putM h (supervisorOnly_stepOver hsup _ _)⟩

/-! ### `vtm`, `utm` (R242, R243) -/

/-- The write to M and the load of PSW exclude each other: register 0 takes no write, and only it loads PSW. -/
theorem State.loadPswBits_putM (s : State) (reg : BitVec 4) (v a : Addr) :
    (s.putM reg.toNat v).loadPswBits reg a =
      if reg = 0 then
        if s.sup then s.putM 0o21 ((s.getM 0o21 &&& ~~~0o2003) ||| (a &&& 0o2003)) else s
      else s.putM reg.toNat v := by
  unfold State.loadPswBits
  by_cases h0 : reg = 0
  · subst h0
    simp [State.psw, pswSaved]
  · rw [if_neg h0, beq_eq_false_iff_ne.2 h0, Bool.and_false]
    rfl

/-- An instruction that writes M and loads PSW from the address, where the value does not depend on the advance. -/
theorem plainRule_of_loadPswBits {i : BitVec 4 → Addr → Instr} {v : BitVec 4 → Addr → State → Addr}
    (hi : ∀ reg addr s, exec (i reg addr) s = runHalf addr s fun a t =>
      .ok .seq ((t.putM reg.toNat (v reg a t)).loadPswBits reg a))
    (hv : ∀ reg a s c, v reg a (s.stepOver c) = v reg a s) :
    PlainRule i fun reg a s =>
      if reg = 0 then
        if s.sup then s.putM 0o21 ((s.getM 0o21 &&& ~~~0o2003) ||| (a &&& 0o2003)) else s
      else s.putM reg.toNat (v reg a s) := by
  simp only [← State.loadPswBits_putM]
  refine plainRule_of_effect hi (fun reg a s c => ?_) fun reg a s => ?_
  · rw [hv, State.putM_stepOver, State.loadPswBits_stepOver]
  · unfold State.loadPswBits
    split_ifs <;> simp

/-- Settles O51: the two differ in the value alone, the address or the executive address. -/
theorem registerFromAddress : Obligations.RegisterFromAddress :=
  ⟨plainRule_of_loadPswBits (v := fun _ a _ => a) (fun _ _ _ => rfl) fun _ _ _ _ => rfl,
    plainRule_of_loadPswBits (v := fun reg a s => s.execAddr reg a) (fun _ _ _ => rfl) fun _ _ _ _ => rfl⟩

/-! ### `utc`, `wtc` (R240, R241) -/

/-- The instruction's own part is to produce the modifier `m`. -/
theorem runHalf_modify {s u : State} (h : s.Inv) (addr m : Addr) (body : Addr → State → Res Flow)
    (hbody : body (s.modified addr) (s.stepOver s.lookahead) = .ok (.modify m) (u.stepOver s.lookahead))
    (hpc : u.pc = s.pc) (hruu : u.ruu = s.ruu) : runHalf addr s body = .next (u.modifierEnd s.lookahead m) := by
  rw [runHalf_eq h, hbody, finish_ok, State.endCycle_modify _ _ hpc (State.right_congr hruu)]

theorem exec_utc (reg : BitVec 4) (addr : Addr) (s : State) :
    exec (.utc reg addr) s = runHalf addr s fun a t => .ok (.modify (t.execAddr reg a)) t := rfl

theorem exec_wtc (reg : BitVec 4) (addr : Addr) (s : State) :
    exec (.wtc reg addr) s = runOperand reg addr s fun x u => .ok (.modify (x.setWidth 15)) u := rfl

/-- Settles O50: `utc` produces its modifier at once, `wtc` where the load of its operand completes. -/
theorem addressModifier : Obligations.AddressModifier := by
  refine ⟨fun s addr => rfl, fun reg addr s h => ?_⟩
  rw [exec_utc, exec_wtc]
  refine ⟨runHalf_modify h addr _ _ rfl rfl rfl, fun x u ho => ?_, fun c u ho => runOperand_loadRaise h ho⟩
  obtain ⟨hpc, hruu⟩ := operandAt_frame h ho
  refine runHalf_modify h addr _ _ ?_ hpc hruu
  rw [withOperand_ok _ _ ho]
  exact ite_self _

/-! ### A register read into ACC (R232, R233, R238) -/

/-- `M[r]`, or the free value of an absent register, zero-extended to ACC; the logical class. -/
def State.readIntoAcc (s : State) (r : Nat) : State :=
  if r < 0o36 then { s with acc := (s.getM r).setWidth 48, rau := (s.rau &&& 0o43) ||| 0o04 }
  else { s with
    acc := (Config.absentRegister s.draws).setWidth 48, draws := s.draws + 1, rau := (s.rau &&& 0o43) ||| 0o04 }

theorem withReadM_acc (r : Nat) (s : State) :
    withReadM r s (fun v u => .ok Flow.seq { u with acc := v.setWidth 48 }.setLogical) = .ok .seq (s.readIntoAcc r) := by
  unfold withReadM State.readIntoAcc
  by_cases hr : r < 0o36
  · rw [if_neg (Nat.not_le.2 hr), if_pos hr]
    rfl
  · rw [if_pos (Nat.not_lt.1 hr), if_neg hr]
    rfl

theorem State.readIntoAcc_stepOver (s : State) (c : Prefetch) (r : Nat) :
    (s.stepOver c).readIntoAcc r = (s.readIntoAcc r).stepOver c := by
  unfold State.readIntoAcc
  split_ifs <;> rfl

theorem State.readIntoAcc_frame (s : State) (r : Nat) :
    (s.readIntoAcc r).pc = s.pc ∧ (s.readIntoAcc r).ruu = s.ruu := by
  unfold State.readIntoAcc
  split_ifs <;> exact ⟨rfl, rfl⟩

/-! ### `ati`, `mtj`, `j+m`, `ita` (R230, R232, R234, R235) -/

theorem exec_jPlusM (reg : BitVec 4) (addr : Addr) (s : State) :
    exec (.jPlusM reg addr) s = runHalf addr s fun a t =>
      if t.sup && a.getLsbD 4 then .ok .seq (t.putM (t.sel a) (t.getM reg.toNat))
      else .ok .seq (t.putM (a.extractLsb' 0 4).toNat (t.getM (a.extractLsb' 0 4).toNat + t.getM reg.toNat)) := rfl

theorem exec_ita (reg : BitVec 4) (addr : Addr) (s : State) :
    exec (.ita reg addr) s = runHalf addr s fun a t => .ok .seq (t.readIntoAcc (t.sel (t.execAddr reg a))) := by
  simp only [← withReadM_acc]
  rfl

/-- `j+m` copies in supervisor mode with address bit 4 and adds otherwise (R235). -/
theorem plainRule_jPlusM : PlainRule .jPlusM fun reg a s =>
    if s.sup = true ∧ a.getLsbD 4 = true then s.putM (a.toNat % 32) (s.getM reg.toNat)
    else s.putM (a.toNat % 16) (s.getM (a.toNat % 16) + s.getM reg.toNat) := by
  intro reg addr s h
  rw [exec_jPlusM]
  beta_reduce
  by_cases hcopy : s.sup = true ∧ (s.modified addr).getLsbD 4 = true
  · have hsel : s.sel (s.modified addr) = (s.modified addr).toNat % 32 := by rw [State.sel_eq, if_pos hcopy.1]
    rw [if_pos hcopy, ← hsel]
    refine runHalf_putM h ?_
    rw [State.sup_stepOver, if_pos (Bool.and_eq_true_iff.2 hcopy), State.sel_stepOver, State.getM_stepOver]
  · rw [if_neg hcopy, ← toNat_lowFour]
    refine runHalf_putM h ?_
    rw [State.sup_stepOver, if_neg (mt Bool.and_eq_true_iff.1 hcopy)]
    rfl

/-- Settles O47: three writes to M and one read into ACC, at the number that `sel` takes from the address. -/
theorem indexRegisterMoves : Obligations.IndexRegisterMoves := by
  refine ⟨State.sel_eq, ?ati, ?mtj, plainRule_jPlusM, ?ita⟩
  case ati => exact plainRule_of_putM (fun _ _ _ => rfl) (fun _ _ s c => s.sel_stepOver c _) fun _ _ _ _ => rfl
  case mtj => exact plainRule_of_putM (fun _ _ _ => rfl) (fun _ _ s c => s.sel_stepOver c _) fun _ _ _ _ => rfl
  case ita =>
    refine plainRule_of_effect (effect := fun reg a s => s.readIntoAcc (s.sel (s.execAddr reg a))) exec_ita
      (fun reg a s c => ?_) fun reg a s => s.readIntoAcc_frame _
    rw [State.execAddr_stepOver, State.sel_stepOver, State.readIntoAcc_stepOver]

/-! ### `its` (R233) -/

theorem exec_its (reg : BitVec 4) (addr : Addr) (s : State) :
    exec (.its reg addr) s = runHalf addr s fun a t =>
      (pushAcc t).andThen fun _ u => .ok .seq (u.readIntoAcc (u.sel (u.execAddr reg a))) := by
  simp only [← withReadM_acc]
  rfl

/-- `its` where the push completes: the address and the register are read under the new stack pointer. -/
theorem exec_its_of_push {s u : State} (h : s.Inv) (hw : memWrite s.sp s.acc s = .ok () u) (reg : BitVec 4)
    (addr : Addr) :
    let w := u.setSp (s.sp + 1)
    exec (.its reg addr) s =
      .next ((w.readIntoAcc (w.sel (w.execAddr reg (s.modified addr)))).seqEnd s.lookahead) := by
  intro w
  have hframe := memWrite_ok_frame h hw
  obtain ⟨hpc, hruu⟩ := w.readIntoAcc_frame (w.sel (w.execAddr reg (s.modified addr)))
  rw [exec_its]
  refine runHalf_seq h addr _ _ ?_ (hpc.trans ((u.putM_pc _ _).trans hframe.pc_eq))
    (State.right_congr (hruu.trans ((u.putM_ruu _ _).trans hframe.ruu_eq)))
  rw [pushAcc_ok h hw, Res.andThen, State.execAddr_stepOver, State.sel_stepOver, State.readIntoAcc_stepOver]

/-! ### `sti` (R231) -/

/-- How `sti` ends after its load: ACC gets the word, the register its new value; the logical class. -/
def stiEnd (r : Nat) (v : Addr) (x : Word) (u : State) : Res Flow :=
  .ok .seq ({ u with acc := x }.putM r v).setLogical

theorem exec_sti (reg : BitVec 4) (addr : Addr) (s : State) :
    exec (.sti reg addr) s = runHalf addr s fun a t =>
      let r := t.sel (t.execAddr reg a)
      if r = 0o17 then (memRead (t.acc.setWidth 15) t).andThen (stiEnd r (t.acc.setWidth 15))
      else withPop t (stiEnd r (t.acc.setWidth 15)) := rfl

section sti
variable {reg : BitVec 4} {addr : Addr} {s : State} (h : s.Inv)
include h

/-- `sti` to a register other than the stack pointer is a pop. -/
theorem exec_sti_pop (hr : s.sel (s.execAddr reg (s.modified addr)) ≠ 0o17) :
    exec (.sti reg addr) s = runHalf addr s fun _ t =>
      withPop t (stiEnd (s.sel (s.execAddr reg (s.modified addr))) (s.acc.setWidth 15)) := by
  rw [exec_sti, runHalf_eq h, runHalf_eq h]
  simp only [State.execAddr_stepOver, State.sel_stepOver, State.stepOver_acc, hr, if_false]

/-- `sti` to the stack pointer loads from its new value. -/
theorem exec_sti_load (hr : s.sel (s.execAddr reg (s.modified addr)) = 0o17) :
    exec (.sti reg addr) s = runHalf addr s fun _ t =>
      (memRead (s.acc.setWidth 15) t).andThen (stiEnd 0o17 (s.acc.setWidth 15)) := by
  rw [exec_sti, runHalf_eq h, runHalf_eq h]
  simp only [State.execAddr_stepOver, State.sel_stepOver, State.stepOver_acc, hr, if_true]

end sti

theorem stiEnd_stepOver (r : Nat) (v : Addr) (x : Word) (u : State) (c : Prefetch) :
    stiEnd r v x (u.stepOver c) =
      .ok .seq (({ u with acc := x, rau := (u.rau &&& 0o43) ||| 0o04 }.putM r v).stepOver c) := by
  unfold stiEnd State.putM
  split_ifs <;> rfl

/-- The load of `sti` ran at `w`, which has PC, the modes and the class of `s`, and completed. -/
theorem runHalf_stiEnd {s w u : State} (h : s.Inv) {addr : Addr} {body : Addr → State → Res Flow} {r : Nat} {v : Addr}
    {x : Word} (hw : w.rau = s.rau ∧ w.pc = s.pc ∧ w.ruu = s.ruu) (hu : u.SameButData w)
    (hbody : body (s.modified addr) (s.stepOver s.lookahead) = stiEnd r v x (u.stepOver s.lookahead)) :
    runHalf addr s body =
      .next (({ u with acc := x, rau := (s.rau &&& 0o43) ||| 0o04 }.putM r v).seqEnd s.lookahead) := by
  obtain ⟨hrau, hpc, hruu⟩ := hw
  rw [← hrau, ← hu.rau_eq]
  exact runHalf_seq h addr body _ (hbody.trans (stiEnd_stepOver r v x u _))
    ((State.putM_pc _ _ _).trans (hu.pc_eq.trans hpc))
    (State.right_congr ((State.putM_ruu _ _ _).trans (hu.ruu_eq.trans hruu)))

section pop
variable {α : Type} {s u : State} {x : Word} {z : Cause}

/-- A pop after the advance, where the load completes. -/
theorem withPop_ok (c : Prefetch) (rest : Word → State → Res α)
    (hload : memRead (s.sp - 1) (s.setSp (s.sp - 1)) = .ok x u) :
    withPop (s.stepOver c) rest = (rest x (u.stepOver c)).undoing 1 := by
  rw [withPop, State.sp_stepOver, State.setSp, State.putM_stepOver, memRead_stepOver, ← State.setSp, hload]
  rfl

/-- A pop after the advance, where the load raises: the stack pointer is what it was (R157). -/
theorem withPop_raise (h : s.Inv) (c : Prefetch) (rest : Word → State → Res α)
    (hload : memRead (s.sp - 1) (s.setSp (s.sp - 1)) = .raise z u) :
    withPop (s.stepOver c) rest = .raise z ((u.setSp s.sp).stepOver c) := by
  have hu : u.SameButData (s.setSp (s.sp - 1)) := State.sameButData_of_promotion (memRead_raise (h.putM _ _) hload)
  have hsp : u.sp + 1 = s.sp := by rw [hu.sp_eq, State.sp_setSp, BitVec.sub_add_cancel]
  rw [withPop, State.sp_stepOver, State.setSp, State.putM_stepOver, memRead_stepOver, ← State.setSp, hload, ← hsp]
  exact congrArg (Res.raise z) (State.putM_stepOver _ _ _ _)

end pop

/-- Settles O46: `sti` pops unless the register is the stack pointer itself; `its` is a push and a read into ACC. -/
theorem stackAndIndex : Obligations.StackAndIndex := by
  intro reg addr s h a rg ad cls
  refine ⟨fun hother => ?pop, fun hsp => ?load, fun u hw => ?push, fun c u hw => ?pushRaise⟩
  case pop =>
    rw [exec_sti_pop h hother]
    refine ⟨fun x v hload => ?_, fun c v hload => runHalf_raise h addr _ _ c (withPop_raise h _ _ hload)⟩
    have hv := State.sameButData_of_promotion (memRead_ok (h.putM _ _) hload)
    refine runHalf_stiEnd h ?_ hv (withPop_ok _ _ hload)
    exact ⟨s.putM_rau _ _, s.putM_pc _ _, s.putM_ruu _ _⟩
  case load =>
    rw [exec_sti_load h hsp]
    have hover := memRead_stepOver s s.lookahead ad
    refine ⟨fun x v hload => ?_, fun c v hload => runHalf_raise h addr _ _ c ?_⟩
    · have hv := State.sameButData_of_promotion (memRead_ok h hload)
      refine runHalf_stiEnd h ⟨rfl, rfl, rfl⟩ hv ?_
      rw [hover, hload]
      rfl
    · rw [hover, hload]
      rfl
  case push =>
    intro w r
    have hread : exec (.its reg addr) s = .next ((w.readIntoAcc r).seqEnd s.lookahead) := exec_its_of_push h hw reg addr
    have hrau : w.rau = s.rau := (u.putM_rau _ _).trans (memWrite_ok_frame h hw).rau_eq
    rw [hread, State.readIntoAcc, hrau]
    exact ⟨fun hr => by rw [if_pos hr], fun hr => by rw [if_neg (Nat.not_lt.2 hr)]⟩
  case pushRaise =>
    rw [exec_its]
    exact runHalf_raise h addr _ s c (congrArg (Res.andThen · _) (pushAcc_raise h hw))

end Sys2Proof.Machine

/-!
PROOFS of the family of the control transfers and the extracodes. A branch or a jump ends in `runHalf_branch` or
`runHalf_jump`. The 26 extracodes are one operation, `extracode`, and the state they leave is read through what its
registers hold; a return through ERET takes them back.
-/
namespace Sys2Proof.Machine

/-! ### `uza`, `u1a` (R250, R251, R258) -/

/-- The branch condition as a test of one class bit after another: the additive class first, then the multiplicative. -/
theorem omegaCond_eq (rau : BitVec 6) (acc : Word) :
    omegaCond rau acc =
      if rau.getLsbD 4 then acc.getLsbD 40
      else if rau.getLsbD 3 then !acc.getLsbD 47
      else if rau.getLsbD 2 then acc != 0
      else true := by
  unfold omegaCond isAdditive isMultiplicative
  cases h4 : rau.getLsbD 4
  case true => rfl
  case false =>
    cases h3 : rau.getLsbD 3
    case true => rfl
    case false =>
      rw [isLogical_eq h4 h3]
      rfl

/-- `runHalf_branch` with the condition as a proposition. -/
theorem runHalf_branch_iff {s : State} (h : s.Inv) (addr : Addr) {taken : Bool} {p : Prop} [Decidable p]
    (htaken : taken = true ↔ p) (u : State) (target : Addr) (hpc : u.pc = s.pc) (hruu : u.ruu = s.ruu)
    {body : Addr → State → Res Flow}
    (hbody : body (s.modified addr) (s.stepOver s.lookahead) = branch taken target (u.stepOver s.lookahead)) :
    runHalf addr s body = .next (if p then u.jumpEnd s.lookahead target else u.seqEnd s.lookahead) := by
  rw [runHalf_branch h addr taken u target hpc (State.right_congr hruu) body hbody]
  simp only [htaken]

theorem exec_uza (reg : BitVec 4) (addr : Addr) (s : State) :
    exec (.uza reg addr) s = runHalf addr s fun a t =>
      branch (!omegaCond t.rau t.acc) (t.execAddr reg a) { t with rmr := t.acc } := rfl

theorem exec_u1a (reg : BitVec 4) (addr : Addr) (s : State) :
    exec (.u1a reg addr) s = runHalf addr s fun a t =>
      branch (omegaCond t.rau t.acc) (t.execAddr reg a) { t with rmr := t.acc } := rfl

/-- Settles O52: both are one branch on `omega`, `uza` with the two ends exchanged. -/
theorem conditionalBranches : Obligations.ConditionalBranches := by
  intro reg addr s h target u w
  have hw : w = omegaCond s.rau s.acc := (omegaCond_eq s.rau s.acc).symm
  rw [hw, exec_uza, exec_u1a]
  constructor
  case left =>
    have hfalse : (!omegaCond s.rau s.acc) = true ↔ ¬ omegaCond s.rau s.acc = true := by simp
    rw [← ite_not]
    exact runHalf_branch_iff h addr hfalse u target rfl rfl rfl
  case right => exact runHalf_branch_iff h addr Iff.rfl u target rfl rfl rfl

/-! ### `uj`, `vjm`, `vzm`, `v1m`, `*36`, `vlm` (R252 to R257) -/

/-- The instruction's own part is one write to M and a transfer of control. -/
theorem runHalf_putM_jump {s : State} (h : s.Inv) {addr : Addr} {body : Addr → State → Res Flow} {r : Nat}
    {v target : Addr}
    (hbody : body (s.modified addr) (s.stepOver s.lookahead) =
      .ok .jump (((s.stepOver s.lookahead).putM r v).jump target)) :
    runHalf addr s body = .next ((s.putM r v).jumpEnd s.lookahead target) :=
  runHalf_jump h addr body _ target (by rw [hbody, State.putM_stepOver])

theorem exec_uj (reg : BitVec 4) (addr : Addr) (s : State) :
    exec (.uj reg addr) s = runHalf addr s fun a t => .ok .jump (t.jump (t.execAddr reg a)) := rfl

theorem exec_vjm (reg : BitVec 4) (addr : Addr) (s : State) :
    exec (.vjm reg addr) s = runHalf addr s fun a t => .ok .jump ((t.putM reg.toNat (s.pc + 1)).jump a) := rfl

theorem exec_vzm (reg : BitVec 4) (addr : Addr) (s : State) :
    exec (.vzm reg addr) s = runHalf addr s fun a t => branch (t.getM reg.toNat == 0) a t := rfl

theorem exec_v1m (reg : BitVec 4) (addr : Addr) (s : State) :
    exec (.v1m reg addr) s = runHalf addr s fun a t => branch (t.getM reg.toNat != 0) a t := rfl

/-- `*36` is `vzm` (R256). -/
theorem exec_op36 (reg : BitVec 4) (addr : Addr) (s : State) : exec (.op36 reg addr) s = exec (.vzm reg addr) s := rfl

theorem exec_vlm (reg : BitVec 4) (addr : Addr) (s : State) :
    exec (.vlm reg addr) s = runHalf addr s fun a t =>
      if t.getM reg.toNat = 0 then .ok .seq t
      else .ok .jump ((t.putM reg.toNat (t.getM reg.toNat + 1)).jump a) := rfl

/-- Settles O53: two jumps, three branches on `M[reg]`, and the loop, which writes `M[reg]` where it jumps. -/
theorem jumpsAndLoops : Obligations.JumpsAndLoops := by
  intro reg addr s h a m
  rw [exec_op36, exec_uj, exec_vjm, exec_vzm, exec_v1m, exec_vlm]
  have hvzm := runHalf_branch_iff h addr (beq_iff_eq (a := m) (b := 0)) s a rfl rfl
    (body := fun a t => branch (t.getM reg.toNat == 0) a t) rfl
  refine ⟨?uj, ?vjm, hvzm, ?v1m, hvzm, ?vlm⟩
  case uj => exact runHalf_jump h addr _ s _ rfl
  case vjm => exact runHalf_putM_jump h rfl
  case v1m =>
    rw [← ite_not]
    exact runHalf_branch_iff h addr (bne_iff_ne (a := m) (b := 0)) s a rfl rfl rfl
  case vlm =>
    split_ifs with hzero
    · exact runHalf_seq h addr _ s (if_pos hzero) rfl rfl
    · exact runHalf_putM_jump h (if_neg hzero)

/-! ### The extracodes (R262) -/

@[simp] theorem State.getM_setMode (s : State) (k : BitVec 2) (r : Nat) : (s.setMode k).getM r = s.getM r := rfl

/-- The state in which an extracode of argument `aex` enters its handler, but for the transfer of control (R262). -/
def State.extracodeSaved (s : State) (aex : Addr) : State :=
  ((((s.putM 0o32 (s.pc + 1)).putM 0o27 s.savedStatus).putM 0o21 0o2007).putM 0o16 aex).setMode 0b01

/-- Every extracode saves the same and differs in its entry alone. -/
theorem extracode_eq {s : State} (h : s.Inv) (nn : Nat) (reg : BitVec 4) (addr : Addr) :
    extracode nn reg addr s =
      .next ((s.extracodeSaved (s.execAddr reg (s.modified addr))).jumpEnd s.lookahead (extracodeEntry nn)) :=
  runHalf_jump h addr _ _ _ (congrArg (Res.ok Flow.jump) (s.enterExtracode_stepOver _ _ _ _))

/-- The opcodes of the extracodes: 0o50 to 0o77, 0o200, 0o210. -/
def IsExtracode (nn : Nat) : Prop := (0o50 ≤ nn ∧ nn ≤ 0o77) ∨ nn = 0o200 ∨ nn = 0o210

/-- The arms of the 26 extracodes are one operation at their opcode. -/
theorem exec_of_isExtracode {i : Instr} (hi : IsExtracode i.opcode) (s : State) :
    exec i s = extracode i.opcode i.reg i.addr s := by
  cases i with
  | ex50 | ex51 | ex52 | ex53 | ex54 | ex55 | ex56 | ex57 | ex60 | ex61 | ex62 | ex63 | ex64 | ex65 | ex66 | ex67 | ex70
  | ex71 | ex72 | ex73 | ex74 | ex75 | ex76 | ex77 | ex20 | ex21 => rfl
  | _ => simp [IsExtracode, Instr.opcode, Instr.fields] at hi

theorem exec_extracode_eq {i : Instr} (hi : IsExtracode i.opcode) {s : State} (h : s.Inv) :
    exec i s = .next ((s.extracodeSaved (s.execAddr i.reg (s.modified i.addr))).jumpEnd s.lookahead
      (extracodeEntry i.opcode)) := by
  rw [exec_of_isExtracode hi, extracode_eq h]

theorem extracodeEntry_eq (nn : Nat) :
    extracodeEntry nn = BitVec.ofNat 15 (if nn ≤ 0o77 then 0o500 + nn else 0o540 + nn / 8) := by
  rw [apply_ite (BitVec.ofNat 15)]
  rfl

/-- Settles O54: each name of the list has its opcode, and the rest is the one equation of the extracodes. -/
theorem extracodes : Obligations.Extracodes := by
  intro p hp reg addr s h
  obtain ⟨hopcode, hreg, haddr, hnn⟩ : (p.1 reg addr).opcode = p.2 ∧ (p.1 reg addr).reg = reg ∧
      (p.1 reg addr).addr = addr ∧ IsExtracode p.2 := by
    fin_cases hp <;> exact ⟨rfl, rfl, rfl, by simp [IsExtracode]⟩
  refine ⟨hopcode, ?_⟩
  rw [exec_extracode_eq (hopcode ▸ hnn) h, hopcode, hreg, haddr, extracodeEntry_eq]
  rfl

/-! ### What an extracode leaves -/

section saved
variable (s : State) (aex : Addr)

theorem State.extracodeSaved_link : (s.extracodeSaved aex).getM 0o32 = s.pc + 1 := by
  simp [State.extracodeSaved, State.getM_putM_same, State.getM_putM_other]

theorem State.extracodeSaved_spsw : (s.extracodeSaved aex).spsw = s.savedStatus := by
  simp [State.extracodeSaved, State.spsw, State.getM_putM_same, State.getM_putM_other]

theorem State.extracodeSaved_psw : (s.extracodeSaved aex).psw = 0o2007 := by
  simp [State.extracodeSaved, State.psw, State.getM_putM_same, State.getM_putM_other]

/-- The user's registers but M[0o16] stay. -/
theorem State.extracodeSaved_getM {r : Nat} (hr : r < 0o20) (hr' : r ≠ 0o16) :
    (s.extracodeSaved aex).getM r = s.getM r := by
  have h32 : r ≠ 0o32 := by omega
  have h27 : r ≠ 0o27 := by omega
  have h21 : r ≠ 0o21 := by omega
  simp [State.extracodeSaved, State.getM_putM_other, hr', h32, h27, h21]

theorem State.extracodeSaved_sup : (s.extracodeSaved aex).sup = true := State.sup_setMode _ _

theorem State.extracodeSaved_data : (s.extracodeSaved aex).acc = s.acc ∧ (s.extracodeSaved aex).rmr = s.rmr ∧
    (s.extracodeSaved aex).rau = s.rau ∧ (s.extracodeSaved aex).mem = s.mem ∧
    (s.extracodeSaved aex).cache = s.cache := by
  simp [State.extracodeSaved]

end saved

theorem State.sup_jumpEnd (s : State) (c : Prefetch) (target : Addr) : (s.jumpEnd c target).sup = s.sup :=
  ((s.jump target).sup_setModPending false).trans (State.sup_setRight { s with pc := target } false)

/-- In user mode the two supervisor bits that SPSW gets are 0. -/
theorem State.savedStatus_of_user {s : State} (huser : s.sup = false) : s.savedStatus = s.psw &&& 0o2003 := by
  obtain ⟨h2, h3⟩ : s.ruu[2] = false ∧ s.ruu[3] = false := Bool.or_eq_false_iff.1 huser
  have hmode : s.ruu &&& 0o14 = 0 := by
    ext i hi
    rw [BitVec.getElem_and]
    interval_cases i <;> simp [h2, h3]
  unfold State.savedStatus
  rw [hmode]
  exact BitVec.or_zero

/-! ### `ij` where no modifier was saved (R278) -/

theorem exec_ij (reg : BitVec 4) (addr : Addr) (s : State) :
    exec (.ij reg addr) s = runHalf addr s fun _ t => supervisorOnly t <|
      .ok { Flow.jump with nextMod := if t.spsw.getLsbD 4 then t.getM 0o20 else 0 } (t.returnFrom reg) := rfl

/-- The end of a cycle that transferred control, whatever state the instruction leaves; `endCycle_jump` needs one that
`jump` made. -/
theorem State.endCycle_transfer (s : State) (wrapped : Bool) :
    s.endCycle wrapped .jump = { s.setModPending false with inDispatch := false } := by
  cases wrapped <;> rfl

theorem exec_ij_of_noModifier {s : State} (h : s.Inv) (hsup : s.sup = true) (hmod : s.spsw.getLsbD 4 = false)
    (reg : BitVec 4) (addr : Addr) :
    exec (.ij reg addr) s =
      .next { ((s.stepOver s.lookahead).returnFrom reg).setModPending false with inDispatch := false } := by
  rw [exec_ij, runHalf_eq h, supervisorOnly_stepOver hsup, State.spsw_stepOver, hmod, finish_ok]
  exact congrArg Host.Outcome.next (State.endCycle_transfer _ _)

section returned
variable (s : State) (reg : BitVec 4)

theorem State.returnFrom_psw : (s.returnFrom reg).psw = (s.psw &&& 0o20) ||| (s.spsw &&& 0o2003) :=
  s.getM_putM_same 0o21 _ (by decide) (by decide)

theorem State.returnFrom_getM {r : Nat} (hr : r ≠ 0o21) : (s.returnFrom reg).getM r = s.getM r :=
  s.getM_putM_other 0o21 r _ hr

theorem State.returnFrom_sup : (s.returnFrom reg).sup = (s.spsw.getLsbD 2 || s.spsw.getLsbD 3) := by
  unfold State.returnFrom
  rw [State.sup_setMode]
  simp

theorem State.returnFrom_right : (s.returnFrom reg).right = s.spsw.getLsbD 8 := by
  unfold State.returnFrom
  rw [State.right_setMode, State.right_setRight]

/-- Outside the registers M, a return changes PC and the modes alone. -/
theorem State.returnFrom_data : (s.returnFrom reg).acc = s.acc ∧ (s.returnFrom reg).rmr = s.rmr ∧
    (s.returnFrom reg).rau = s.rau ∧ (s.returnFrom reg).mem = s.mem ∧ (s.returnFrom reg).cache = s.cache := by
  simp [State.returnFrom]

end returned

/-- A return through ERET from a handler that user mode entered with the status word `p`: SPSW holds no modifier to
re-arm, and says user mode and the left half. -/
theorem exec_ij_to_user {s : State} {p : Addr} (h : s.Inv) (hsup : s.sup = true) (hspsw : s.spsw = p &&& 0o2003)
    (hpsw : s.psw = 0o2007) (addr : Addr) :
    ∃ u, exec (.ij 2 addr) s = .next u ∧ u.sup = false ∧ u.pc = s.getM 0o32 ∧ u.right = false ∧
      u.psw = p &&& 0o2003 ∧
      (u.acc = s.acc ∧ u.rmr = s.rmr ∧ u.rau = s.rau ∧ u.mem = s.mem ∧ u.cache = s.cache) ∧
      ∀ r, r ≠ 0o21 → u.getM r = s.getM r := by
  refine ⟨_, exec_ij_of_noModifier h hsup (by simp [hspsw]) 2 addr, ?sup, rfl, ?right, ?psw,
    State.returnFrom_data _ 2, fun r hr => State.returnFrom_getM _ 2 hr⟩
  case sup =>
    refine (State.sup_setModPending _ _).trans ?_
    rw [State.returnFrom_sup, State.spsw_stepOver, hspsw]
    simp
  case right =>
    refine (State.right_setModPending _ _).trans ?_
    rw [State.returnFrom_right, State.spsw_stepOver, hspsw]
    simp
  case psw =>
    refine (State.returnFrom_psw _ 2).trans ?_
    rw [State.psw_stepOver, State.spsw_stepOver, hpsw, hspsw, BitVec.and_assoc]
    exact BitVec.zero_or

/-- Settles O59: the extracode leaves in ERET, SPSW and PSW what the return to user mode takes from there. -/
theorem extracodeThenReturn : Obligations.ExtracodeThenReturn := by
  intro i addr s t u hi h huser ht hu
  have htInv : t.Inv := (exec_answersInv i h).inv ht
  rw [exec_extracode_eq hi h] at ht
  obtain rfl := Host.Outcome.next.inj ht
  generalize s.execAddr i.reg (s.modified i.addr) = aex at *
  have hsup := (State.sup_jumpEnd _ s.lookahead (extracodeEntry i.opcode)).trans (s.extracodeSaved_sup aex)
  have hspsw := (s.extracodeSaved_spsw aex).trans (State.savedStatus_of_user huser)
  obtain ⟨v, hv, hvsup, hvpc, hvright, hvpsw, ⟨hacc, hrmr, hrau, hmem, hcache⟩, hvM⟩ :=
    exec_ij_to_user htInv hsup hspsw (s.extracodeSaved_psw aex) addr
  obtain rfl := Host.Outcome.next.inj (hv.symm.trans hu)
  obtain ⟨hacc', hrmr', hrau', hmem', hcache'⟩ := s.extracodeSaved_data aex
  exact ⟨hvsup, hvpc.trans (s.extracodeSaved_link aex), hvright, hvpsw, hacc.trans hacc', hrmr.trans hrmr',
    hrau.trans hrau', hmem.trans hmem', hcache.trans hcache',
    fun r hr hr' => (hvM r (by omega)).trans (s.extracodeSaved_getM aex hr hr')⟩

end Sys2Proof.Machine

/-!
PROOFS of the family of the supervisor instructions. The test of the mode comes before everything else
(`runHalf_supervisorOnly`, `runHalf_supervisorOnly_user`); behind it `mod` and `ext` are one write or one read that the
address selects, and `ij` ends as a transfer of control that may re-arm a modifier.
-/
namespace Sys2Proof.Machine

/-! ### The test of the mode (R108 (a), R275) -/

theorem State.not_sup_stepOver {s : State} (huser : s.sup = false) (c : Prefetch) : ¬ (s.stepOver c).sup = true := by
  rw [State.sup_stepOver, huser]
  decide

section mode
variable {s : State} (h : s.Inv) (addr : Addr) (body : Addr → State → Res Flow)
include h

/-- In supervisor mode the test of the mode is passed. -/
theorem runHalf_supervisorOnly (hsup : s.sup = true) :
    runHalf addr s (fun a t => supervisorOnly t (body a t)) = runHalf addr s body := by
  rw [runHalf_eq h, runHalf_eq h, supervisorOnly_stepOver hsup]

/-- In user mode the instruction raises at once, whatever its meaning. -/
theorem runHalf_supervisorOnly_user (huser : s.sup = false) :
    runHalf addr s (fun a t => supervisorOnly t (body a t)) = .next (s.faultEnd s.lookahead .illegalInsn) :=
  runHalf_raise h addr _ s .illegalInsn (if_neg (State.not_sup_stepOver huser _))

end mode

/-! ### The meanings behind the test -/

/-- The function of `mod` that the executive address selects (R270). -/
def State.modSelect (s : State) (reg : BitVec 4) (a : Addr) : BitVec 8 := (s.execAddr reg a).extractLsb' 0 8

theorem State.modSelect_stepOver (s : State) (c : Prefetch) (reg : BitVec 4) (a : Addr) :
    (s.stepOver c).modSelect reg a = s.modSelect reg a := rfl

/-- The meaning of `ext`: a read into ACC or a write of ACC, as address bit 11 says (R276). -/
def extTransfer (aex : Addr) (s : State) : Res Flow :=
  if aex.getLsbD 11 then .ok .seq (s.portRead (aex &&& 0o4177)).setLogical
  else .ok .seq (s.portWrite (aex &&& 0o4177))

theorem exec_op32 (reg : BitVec 4) (addr : Addr) (s : State) :
    exec (.op32 reg addr) s = runHalf addr s fun _ t => .raise .illegalInsn t := rfl

theorem exec_mod (reg : BitVec 4) (addr : Addr) (s : State) :
    exec (.mod reg addr) s = runHalf addr s fun a t => supervisorOnly t (modFunction (t.modSelect reg a) t) := rfl

theorem exec_ext (reg : BitVec 4) (addr : Addr) (s : State) :
    exec (.ext reg addr) s = runHalf addr s fun a t => supervisorOnly t (extTransfer (t.execAddr reg a) t) := rfl

/-- Settles O13: `*32` is a raise and nothing else; the other five fail the test of the mode. -/
theorem illegalInstructions : Obligations.IllegalInstructions := by
  intro reg addr s h
  rw [exec_op32, exec_mod, exec_ext, exec_op46, exec_op47, exec_ij]
  refine ⟨runHalf_raise h addr _ s _ rfl, fun huser => ?_⟩
  have hraises := fun body => runHalf_supervisorOnly_user h addr body huser
  exact ⟨hraises _, hraises _, hraises _, hraises _, hraises _⟩

/-! ### `mod`: which of the three kinds a function is (R270) -/

/-- The upper half of the functions are the reads. -/
theorem getLsbD_seven_iff (f : BitVec 8) : f.getLsbD 7 = true ↔ 0o200 ≤ f.toNat := by
  rw [← BitVec.msb_eq_getLsbD_last, BitVec.msb_eq_decide]
  exact decide_eq_true_iff

theorem modFunction_write {f : BitVec 8} (hf : f.toNat < 0o140) (s : State) :
    modFunction f s = .ok .seq (s.modWrite f) := by
  have hwrite : ¬ f.getLsbD 7 = true := by rw [getLsbD_seven_iff]; omega
  rw [modFunction, if_neg hwrite, if_neg (by omega)]

theorem modFunction_stop {f : BitVec 8} (hlo : 0o140 ≤ f.toNat) (hhi : f.toNat ≤ 0o177) (s : State) :
    modFunction f s = .ok (.halt .unimplemented) s := by
  have hwrite : ¬ f.getLsbD 7 = true := by rw [getLsbD_seven_iff]; omega
  rw [modFunction, if_neg hwrite, if_pos hlo]

theorem modFunction_read {f : BitVec 8} (hf : 0o200 ≤ f.toNat) (s : State) :
    modFunction f s = .ok .seq (s.modRead f).setLogical := by
  rw [modFunction, if_pos ((getLsbD_seven_iff f).2 hf)]

/-! ### What the functions of `mod` change, before the advance and after it -/

theorem setBit_comm {w : Nat} (x : BitVec w) {i j : Nat} (hij : i ≠ j) (a b : Bool) :
    setBit (setBit x i a) j b = setBit (setBit x j b) i a := by
  apply BitVec.eq_of_getLsbD_eq
  intro k hk
  simp only [getLsbD_setBit _ _ _ k hk]
  split_ifs with hkj hki
  · exact absurd (hki.symm.trans hkj) hij
  all_goals rfl

/-- The control bits are not the bit of the half. -/
theorem State.right_setControl (s : State) (f : BitVec 8) : (s.setControl f).right = s.right := by
  unfold State.right State.setControl
  rw [setBit_other _ 1 _ 8 (by decide), setBit_other _ 0 _ 8 (by decide), setBit_other _ 5 _ 8 (by decide)]

theorem State.setControl_stepOver (s : State) (c : Prefetch) (f : BitVec 8) :
    (s.stepOver c).setControl f = (s.setControl f).stepOver c := by
  unfold State.stepOver
  rw [State.right_setControl]
  unfold State.setControl
  rw [setBit_comm _ (by decide : 8 ≠ 5), setBit_comm _ (by decide : 8 ≠ 0), setBit_comm _ (by decide : 8 ≠ 1)]

theorem State.setCacheSlot_stepOver (s : State) (c : Prefetch) (k : Fin 8) (v : Word) :
    (s.stepOver c).setCacheSlot k v = (s.setCacheSlot k v).stepOver c := by
  unfold State.setCacheSlot
  rw [State.storeTag_stepOver]
  rfl

theorem State.modWrite_stepOver (s : State) (c : Prefetch) (f : BitVec 8) :
    (s.stepOver c).modWrite f = (s.modWrite f).stepOver c := by
  unfold State.modWrite
  rw [State.setCacheSlot_stepOver, State.setControl_stepOver]
  simp only
  split_ifs <;> rfl

theorem State.modWrite_pc (s : State) (f : BitVec 8) : (s.modWrite f).pc = s.pc := by
  unfold State.modWrite
  simp only
  split_ifs <;> rfl

theorem State.right_modWrite (s : State) (f : BitVec 8) : (s.modWrite f).right = s.right := by
  have hcontrol := s.right_setControl f
  unfold State.modWrite
  simp only
  split_ifs
  case neg => exact hcontrol
  all_goals rfl

theorem State.modRead_stepOver (s : State) (c : Prefetch) (f : BitVec 8) :
    (s.stepOver c).modRead f = (s.modRead f).stepOver c := by
  unfold State.modRead
  split_ifs <;> rfl

theorem State.modRead_frame (s : State) (f : BitVec 8) : (s.modRead f).pc = s.pc ∧ (s.modRead f).ruu = s.ruu := by
  unfold State.modRead
  split_ifs <;> exact ⟨rfl, rfl⟩

/-! ### `mod` in supervisor mode, by the kind of its function -/

section mod
variable {reg : BitVec 4} {addr : Addr} {s : State} {f : BitVec 8} (h : s.Inv) (hsup : s.sup = true)
  (hf : s.modSelect reg (s.modified addr) = f)
include h hsup hf

theorem exec_mod_write (hn : f.toNat < 0o140) :
    exec (.mod reg addr) s = .next ((s.modWrite f).seqEnd s.lookahead) := by
  subst hf
  rw [exec_mod, runHalf_supervisorOnly h addr _ hsup]
  refine runHalf_seq h addr _ _ ?_ (s.modWrite_pc _) (s.right_modWrite _)
  rw [State.modSelect_stepOver, modFunction_write hn, State.modWrite_stepOver]

/-- The stop leaves the advance and the stop code, and nothing else (S2). -/
theorem exec_mod_stop (hlo : 0o140 ≤ f.toNat) (hhi : f.toNat ≤ 0o177) :
    exec (.mod reg addr) s = .next ((s.stepOver s.lookahead).stopWith .unimplemented) := by
  subst hf
  rw [exec_mod, runHalf_supervisorOnly h addr _ hsup, runHalf_eq h, State.modSelect_stepOver, modFunction_stop hlo hhi,
    finish_ok, State.endCycle_unimplemented]

theorem exec_mod_read (hn : 0o200 ≤ f.toNat) :
    exec (.mod reg addr) s = .next ((s.modRead f).setLogical.seqEnd s.lookahead) := by
  subst hf
  obtain ⟨hpc, hruu⟩ := s.modRead_frame (s.modSelect reg (s.modified addr))
  rw [exec_mod, runHalf_supervisorOnly h addr _ hsup]
  refine runHalf_seq h addr _ _ ?_ hpc (State.right_congr hruu)
  rw [State.modSelect_stepOver, modFunction_read hn, State.modRead_stepOver]
  rfl

end mod

/-! ### The tables of R270 -/

theorem modIndex_eq (f : BitVec 8) : modIndex f = ⟨f.toNat % 8, Nat.mod_lt _ (by decide)⟩ := by
  apply Fin.ext
  simp [modIndex]

/-- The protection group of a function 0o030 .. 0o033 (R272). -/
theorem toNat_lowTwo {f : BitVec 8} (hlo : 0o030 ≤ f.toNat) (hhi : f.toNat ≤ 0o033) :
    (f.extractLsb' 0 2).toNat = f.toNat - 0o030 := by
  rw [BitVec.extractLsb'_toNat, Nat.shiftRight_zero]
  omega

section tables
variable (s : State) {f : BitVec 8}

theorem State.modWrite_cacheSlot (hhi : f.toNat ≤ 0o007) : s.modWrite f = s.setCacheSlot (modIndex f) s.acc := if_pos hhi

theorem State.modWrite_pageRegister (hlo : 0o020 ≤ f.toNat) (hhi : f.toNat ≤ 0o027) :
    s.modWrite f = s.setPageRegister (modIndex f) s.acc := by
  simp (disch := omega) only [State.modWrite, if_pos, if_neg]

theorem State.modWrite_protection (hlo : 0o030 ≤ f.toNat) (hhi : f.toNat ≤ 0o033) :
    s.modWrite f = s.setProtection (f.extractLsb' 0 2) s.acc := by
  simp (disch := omega) only [State.modWrite, if_pos, if_neg]

theorem State.modWrite_mgrp (hf : f.toNat = 0o036) : s.modWrite f = { s with mgrp := s.acc } := by
  simp (disch := omega) only [State.modWrite, if_pos, if_neg]

theorem State.modWrite_grp (hf : f.toNat = 0o037) :
    s.modWrite f = { s with grp := s.grp &&& (s.acc ||| s.cfg.grpWired) } := by
  simp (disch := omega) only [State.modWrite, if_pos, if_neg]

theorem State.modWrite_control (hlo : 0o100 ≤ f.toNat) : s.modWrite f = s.setControl f := by
  simp (disch := omega) only [State.modWrite, if_neg]

/-- The write functions that the table does not use. -/
theorem State.modWrite_unused (hf : (0o010 ≤ f.toNat ∧ f.toNat ≤ 0o017) ∨ f.toNat = 0o034 ∨ f.toNat = 0o035 ∨
    (0o040 ≤ f.toNat ∧ f.toNat ≤ 0o077)) : s.modWrite f = s := by
  obtain ⟨hlo, hhi⟩ | hf | hf | ⟨hlo, hhi⟩ := hf <;> simp (disch := omega) only [State.modWrite, if_pos, if_neg]

theorem State.modRead_cacheSlot (hhi : f.toNat ≤ 0o207) : s.modRead f = { s with acc := s.getCacheSlot (modIndex f) } :=
  if_pos hhi

theorem State.modRead_grp (hf : f.toNat = 0o237) : s.modRead f = { s with acc := s.grp } := by
  simp (disch := omega) only [State.modRead, if_pos, if_neg]

/-- The read functions that the table does not use. -/
theorem State.modRead_unused (hlo : 0o210 ≤ f.toNat) (hf : f.toNat ≠ 0o237) : s.modRead f = s := by
  simp (disch := omega) only [State.modRead, if_neg]

end tables

/-- Settles O55: the function is a write, and the table of R270 says which. -/
theorem specialRegisterWrite : Obligations.SpecialRegisterWrite := by
  intro reg addr s h hsup f n i
  have hwrite := exec_mod_write (f := f) h hsup rfl
  have hindex : modIndex f = i := modIndex_eq f
  refine ⟨fun hhi => ?slot, fun hlo hhi => ?page, fun hlo hhi => ?protection, fun hn => ?mgrp, fun hn => ?grp,
    fun hlo hhi => ?control, fun hn => ?unused⟩
  case slot =>
    rw [hwrite (by omega), s.modWrite_cacheSlot hhi, hindex]
    rfl
  case page => rw [hwrite (by omega), s.modWrite_pageRegister hlo hhi, hindex]
  case protection =>
    rw [hwrite (by omega), s.modWrite_protection hlo hhi, State.setProtection, toNat_lowTwo hlo hhi]
  case mgrp => rw [hwrite (by omega), s.modWrite_mgrp hn]
  case grp => rw [hwrite (by omega), s.modWrite_grp hn]
  case control =>
    rw [hwrite (by omega), s.modWrite_control hlo]
    rfl
  case unused => rw [hwrite (by omega), s.modWrite_unused hn]

/-- Settles O56: a read of the table of R270 with the logical class, or the stop. -/
theorem specialRegisterRead : Obligations.SpecialRegisterRead := by
  intro reg addr s h hsup f n i cls
  have hread := exec_mod_read (f := f) h hsup rfl
  have hindex : modIndex f = i := modIndex_eq f
  refine ⟨exec_mod_stop h hsup rfl, fun hlo hhi => ?slot, fun hn => ?grp, fun hn => ?unused⟩
  case slot =>
    rw [hread hlo, s.modRead_cacheSlot hhi, hindex]
    rfl
  case grp =>
    rw [hread (by omega), s.modRead_grp hn]
    rfl
  case unused =>
    rw [hread (by omega), s.modRead_unused (by omega) (by omega)]
    rfl

/-! ### `ext` (R276, R277) -/

/-- The port number keeps the bit that tells a read from a write. -/
theorem getLsbD_port (aex : Addr) : (aex &&& 0o4177).getLsbD 11 = aex.getLsbD 11 := by simp

theorem State.portWrite_stepOver (s : State) (c : Prefetch) (port : Addr) :
    (s.stepOver c).portWrite port = (s.portWrite port).stepOver c := by
  unfold State.portWrite
  split_ifs <;> rfl

theorem State.portWrite_frame (s : State) (port : Addr) :
    (s.portWrite port).pc = s.pc ∧ (s.portWrite port).ruu = s.ruu := by
  unfold State.portWrite
  split_ifs <;> exact ⟨rfl, rfl⟩

theorem State.portRead_stepOver (s : State) (c : Prefetch) (port : Addr) :
    (s.stepOver c).portRead port = (s.portRead port).stepOver c := by
  unfold State.portRead
  split_ifs <;> rfl

theorem State.portRead_frame (s : State) (port : Addr) :
    (s.portRead port).pc = s.pc ∧ (s.portRead port).ruu = s.ruu := by
  unfold State.portRead
  split_ifs <;> exact ⟨rfl, rfl⟩

section ext
variable {reg : BitVec 4} {addr : Addr} {s : State} {port : Addr} (h : s.Inv) (hsup : s.sup = true)
  (hport : s.execAddr reg (s.modified addr) &&& 0o4177 = port)
include h hsup hport

theorem exec_ext_write (hdir : port.getLsbD 11 = false) :
    exec (.ext reg addr) s = .next ((s.portWrite port).seqEnd s.lookahead) := by
  subst hport
  obtain ⟨hpc, hruu⟩ := s.portWrite_frame (s.execAddr reg (s.modified addr) &&& 0o4177)
  rw [getLsbD_port] at hdir
  rw [exec_ext, runHalf_supervisorOnly h addr _ hsup]
  refine runHalf_seq h addr _ _ ?_ hpc (State.right_congr hruu)
  rw [State.execAddr_stepOver, extTransfer, if_neg (by rw [hdir]; decide), State.portWrite_stepOver]

theorem exec_ext_read (hdir : port.getLsbD 11 = true) :
    exec (.ext reg addr) s = .next ((s.portRead port).setLogical.seqEnd s.lookahead) := by
  subst hport
  obtain ⟨hpc, hruu⟩ := s.portRead_frame (s.execAddr reg (s.modified addr) &&& 0o4177)
  rw [getLsbD_port] at hdir
  rw [exec_ext, runHalf_supervisorOnly h addr _ hsup]
  refine runHalf_seq h addr _ _ ?_ hpc (State.right_congr hruu)
  rw [State.execAddr_stepOver, extTransfer, if_pos hdir, State.portRead_stepOver]
  rfl

end ext

/-- Settles O57: the port number tells the direction, and then the port. -/
theorem portAccess : Obligations.PortAccess := by
  intro reg addr s h hsup port cls
  have hwrite := exec_ext_write (port := port) h hsup rfl
  have hread := exec_ext_read (port := port) h hsup rfl
  refine ⟨fun hp => ?prp, fun hp => ?mprp, fun hp => ?prpHigh, fun hp => ?prpLow, fun hprp hmprp hdir => ?output,
    fun hhigh hlow hdir => ?input⟩
  case prp => rw [hwrite (by rw [hp]; decide), State.portWrite, if_pos hp]
  case mprp => rw [hwrite (by rw [hp]; decide), State.portWrite, if_neg (by rw [hp]; decide), if_pos hp]
  case prpHigh =>
    rw [hread (by rw [hp]; decide), State.portRead, if_pos hp]
    rfl
  case prpLow =>
    rw [hread (by rw [hp]; decide), State.portRead, if_neg (by rw [hp]; decide), if_pos hp]
    rfl
  case output => rw [hwrite hdir, State.portWrite, if_neg hprp, if_neg hmprp]
  case input =>
    rw [hread hdir, State.portRead, if_neg hhigh, if_neg hlow]
    rfl

/-! ### `ij` in supervisor mode (R278, R159) -/

/-- Writing back what a present register holds changes nothing. -/
theorem State.putM_getM_same (s : State) {r : Nat} (h0 : r ≠ 0) (hr : r ≤ 0o33) : s.putM r (s.getM r) = s := by
  have hlt : r - 1 < 27 := by omega
  unfold State.putM State.getM
  simp (disch := omega) only [if_neg]
  have hm : s.m.setIfInBounds (r - 1) s.m[r - 1] = s.m := by
    ext j hj
    rw [Vector.getElem_setIfInBounds hj]
    split_ifs with hrj
    · subst hrj
      rfl
    · rfl
  rw [Vector.getElem?_eq_getElem hlt, Option.getD_some, hm]

/-- Re-arming the modifier that `M[0o20]` still holds: only `RUU.MOD` changes, and a modifier of 0 is none (R159). -/
theorem State.armModifier_saved (s : State) (flag : Bool) :
    s.armModifier (if flag then s.getM 0o20 else 0) = s.setModPending (flag && s.getM 0o20 != 0) := by
  unfold State.armModifier
  cases flag
  case false => rfl
  case true =>
    by_cases hzero : s.getM 0o20 = 0
    · rw [if_pos rfl, if_pos hzero, hzero]
      rfl
    · rw [if_pos rfl, if_neg hzero, s.putM_getM_same (by decide) (by decide), Bool.true_and, bne_iff_ne.2 hzero]

/-- The end of a cycle that transferred control and produced the modifier `m`. -/
theorem State.endCycle_transferModify (s : State) (wrapped : Bool) (m : Addr) :
    s.endCycle wrapped { Flow.jump with nextMod := m } = { s.armModifier m with inDispatch := false } := by
  cases wrapped <;> rfl

/-- The return by the fields it changes (R278). -/
theorem State.returnFrom_eq (s : State) (reg : BitVec 4) :
    s.returnFrom reg =
      { s.putM 0o21 ((s.getM 0o21 &&& 0o20) ||| (s.getM 0o27 &&& 0o2003)) with
        pc := s.getM (0o30 + reg.toNat % 4)
        ruu := setField (setBit s.ruu 8 ((s.getM 0o27).getLsbD 8)) 2 ((s.getM 0o27).extractLsb' 2 2) } := by
  have hreg : (reg.extractLsb' 0 2).toNat = reg.toNat % 4 := by simp
  unfold State.returnFrom
  rw [hreg]
  rfl

/-- `ij` in supervisor mode: the return, with the modifier re-armed where SPSW says one was pending. -/
theorem exec_ij_eq {s : State} (h : s.Inv) (hsup : s.sup = true) (reg : BitVec 4) (addr : Addr) :
    exec (.ij reg addr) s =
      .next { ((s.stepOver s.lookahead).returnFrom reg).setModPending (s.spsw.getLsbD 4 && s.getM 0o20 != 0) with
        inDispatch := false } := by
  have hmodifier : ((s.stepOver s.lookahead).returnFrom reg).getM 0o20 = s.getM 0o20 :=
    State.returnFrom_getM _ reg (by decide)
  rw [exec_ij, runHalf_supervisorOnly h addr _ hsup, runHalf_eq h, finish_ok,
    State.endCycle_transferModify, State.spsw_stepOver, State.getM_stepOver, ← hmodifier, State.armModifier_saved]

/-- Settles O58: the return overwrites all that the advance did but the prefetch cache. -/
theorem returnInstruction : Obligations.ReturnInstruction := by
  intro reg addr s h hsup saved t
  rw [exec_ij_eq h hsup, State.returnFrom_eq, State.putM_stepOver, State.stepOver_ruu, setBit_setBit]
  rfl

/-! ### `stop` (R279) -/

theorem exec_stop (reg : BitVec 4) (addr : Addr) (s : State) :
    exec (.stop reg addr) s = runHalf addr s fun a t =>
      if t.sup then .ok (.halt .halt) t
      else if t.checkHalt then .ok .seq t
      else .ok .jump (t.enterExtracode (extracodeEntry 0o63) (t.execAddr reg a) s.nextPc) := rfl

section stop
variable {s : State} (h : s.Inv) (reg : BitVec 4) (addr : Addr)
include h

theorem exec_stop_supervisor (hsup : s.sup = true) :
    exec (.stop reg addr) s = .next (s.haltEnd s.lookahead .halt) := by
  rw [exec_stop, runHalf_eq h, State.sup_stepOver, if_pos hsup, finish_ok, State.endCycle_halt]

theorem exec_stop_checkHalt (huser : s.sup = false) (hcheck : s.checkHalt = true) :
    exec (.stop reg addr) s = .next (s.seqEnd s.lookahead) := by
  rw [exec_stop]
  exact runHalf_seq h addr _ s ((if_neg (State.not_sup_stepOver huser _)).trans (if_pos hcheck)) rfl rfl

/-- In user mode without `CHECK_HALT`, `stop` is extracode 0o63. -/
theorem exec_stop_extracode (huser : s.sup = false) (hcheck : s.checkHalt = false) :
    exec (.stop reg addr) s = extracode 0o63 reg addr s := by
  have hnoCheck : ¬ (s.stepOver s.lookahead).checkHalt = true := fun hc => Bool.noConfusion (hcheck.symm.trans hc)
  rw [exec_stop, extracode, runHalf_eq h, runHalf_eq h, if_neg (State.not_sup_stepOver huser _), if_neg hnoCheck]

end stop

/-- Settles O60: the mode and `CHECK_HALT` select one of the three. -/
theorem stopInstruction : Obligations.StopInstruction := by
  intro reg addr s h
  refine ⟨exec_stop_supervisor h reg addr, exec_stop_checkHalt h reg addr, fun huser hcheck => ?_⟩
  rw [exec_stop_extracode h reg addr huser hcheck, extracode_eq h]
  rfl

end Sys2Proof.Machine

/-!
PROOFS of the family of the exceptions and the modes. Trap entry is read through what it writes (`State.trapSaved`) and
its frame, the fault handler through its three outcomes. What one instruction may leave behind is one relation between
the state it started from and the state it ends in (`Confined`): supervisor mode, or user mode with the supervisor's part
of the state untouched. Each shared operation of the instructions gets one lemma, each instruction is assembled from
them, and R335 is read off in both directions.
-/
namespace Sys2Proof.Machine

/-! ### Writing the bit that is there, or-ing in a clear bit -/

theorem setBit_getLsbD {w : Nat} (x : BitVec w) (i : Nat) : setBit x i (x.getLsbD i) = x := by
  apply BitVec.eq_of_getLsbD_eq
  intro j hj
  rw [getLsbD_setBit _ _ _ _ hj]
  split_ifs with hji
  · rw [hji]
  · rfl

theorem setBit_of_clear {w : Nat} {x : BitVec w} {i : Nat} (hclear : x.getLsbD i = false) (b : Bool) :
    setBit x i b = x ||| (if b then 1#w <<< i else 0) := by
  cases b with
  | true => rfl
  | false =>
    have hsame := setBit_getLsbD x i
    rw [hclear] at hsame
    exact hsame.trans BitVec.or_zero.symm

/-! ### Trap entry (R305) -/

/-- The status word a trap saves: that of every entry, with the half and the pending-modifier flag. -/
def State.trapStatus (s : State) : Addr := setBit (setBit s.savedStatus 8 s.right) 4 s.modPending

/-- The registers M after a trap entry: SPSW, IRET and PSW written, in that order. -/
def State.trapSaved (s : State) : State :=
  ((s.putM 0o27 s.trapStatus).putM 0o33 s.pc).putM 0o21 (s.psw ||| 0o2003)

theorem State.trapEntry_eq (s : State) (vector : Addr) :
    s.trapEntry vector = ((s.trapSaved.setModPending false).setMode 0b10).jump vector := rfl

/-- A write to a register that is stored in `M` reaches that field alone. -/
theorem State.putM_of_stored (s : State) {r : Nat} (v : Addr) (h0 : r ≠ 0) (hr : r ≤ 0o33) :
    s.putM r v = { s with m := s.m.setIfInBounds (r - 1) v } := by
  rw [State.putM, if_neg h0, if_neg (by omega), if_neg (by omega)]

theorem State.exists_trapSaved (s : State) : ∃ m, s.trapSaved = { s with m := m } := by
  unfold State.trapSaved
  simp (disch := decide) only [State.putM_of_stored]
  exact ⟨_, rfl⟩

section trapEntry
variable (s : State) (vector : Addr)

theorem State.trapEntry_getM (r : Nat) : (s.trapEntry vector).getM r = s.trapSaved.getM r := by
  rw [State.trapEntry_eq]
  exact State.getM_congr (by simp) (by simp) (by simp) r

theorem State.trapEntry_spsw : (s.trapEntry vector).spsw = s.trapStatus := by
  rw [State.spsw, State.trapEntry_getM]
  simp [State.trapSaved, State.getM_putM_same, State.getM_putM_other]

theorem State.trapEntry_iret : (s.trapEntry vector).getM 0o33 = s.pc := by
  rw [State.trapEntry_getM]
  simp [State.trapSaved, State.getM_putM_same, State.getM_putM_other]

theorem State.trapEntry_psw : (s.trapEntry vector).psw = s.psw ||| 0o2003 := by
  rw [State.psw, State.trapEntry_getM]
  simp [State.trapSaved, State.getM_putM_same]

theorem State.trapEntry_getM_other {r : Nat} (h21 : r ≠ 0o21) (h27 : r ≠ 0o27) (h33 : r ≠ 0o33) :
    (s.trapEntry vector).getM r = s.getM r := by
  rw [State.trapEntry_getM]
  simp only [State.trapSaved, State.getM_putM_other, ne_eq, h21, h27, h33, not_false_eq_true]

/-- The mode becomes supervisor by interrupt, the left half is next, no modifier is pending. -/
theorem State.trapEntry_ruu : (s.trapEntry vector).ruu = (s.ruu &&& 0o343) ||| 0o10 := by
  have hsaved : s.trapSaved.ruu = s.ruu := by simp [State.trapSaved]
  rw [State.trapEntry_eq, State.jump_ruu, State.setMode_ruu, State.setModPending_ruu, hsaved]
  ext i hi
  simp only [← BitVec.getLsbD_eq_getElem, BitVec.getLsbD_or, BitVec.getLsbD_and]
  rw [getLsbD_setBit _ _ _ _ hi, getLsbD_setField _ _ _ (by decide) _ hi, getLsbD_setBit _ _ _ _ hi]
  interval_cases i <;> simp

/-- Outside PC, RUU and the registers M nothing changes. -/
theorem State.trapEntry_frame : { s.trapEntry vector with pc := s.pc, ruu := s.ruu, m := s.m } = s := by
  obtain ⟨m, hm⟩ := s.exists_trapSaved
  rw [State.trapEntry_eq, hm]
  rfl

end trapEntry

theorem State.trapStatus_eq (s : State) :
    s.trapStatus = (s.psw &&& 0o2003) ||| (s.ruu &&& 0o14).setWidth 15 ||| (if s.right then 0o400 else 0) |||
      (if s.modPending then 0o20 else 0) := by
  have h8 : s.savedStatus.getLsbD 8 = false := by simp [State.savedStatus, pswSaved]
  have h4 : s.savedStatus.getLsbD 4 = false := by simp [State.savedStatus, pswSaved]
  have h48 : (setBit s.savedStatus 8 s.right).getLsbD 4 = false := by rw [setBit_other _ _ _ _ (by decide), h4]
  rw [State.trapStatus, setBit_of_clear h48, setBit_of_clear h8]
  rfl

/-- The saved half is the one that was next. -/
theorem State.trapStatus_half (s : State) : s.trapStatus.getLsbD 8 = s.right := by
  rw [State.trapStatus, setBit_other _ _ _ _ (by decide), setBit_self _ _ _ (by decide)]

/-- Settles O9: the three registers written, the modes, PC, and the frame. -/
theorem trapEntryRule : Obligations.TrapEntryRule := fun s vector =>
  ⟨(s.trapEntry_spsw vector).trans s.trapStatus_eq, s.trapEntry_iret vector, s.trapEntry_psw vector,
    s.trapEntry_ruu vector, rfl, fun _ h21 h27 h33 => s.trapEntry_getM_other vector h21 h27 h33,
    s.trapEntry_frame vector⟩

/-! ### The top of the cycle (R301, R303, R306) -/

theorem State.interruptDue_iff (s : State) :
    s.interruptDue = true ↔
      s.inDispatch = false ∧ s.right = false ∧ s.intrDisable = false ∧ s.grp &&& s.mgrp ≠ 0 := by
  simp [State.interruptDue, and_assoc]

theorem State.summarise_eq (s : State) :
    s.summarise = { s with grp := if s.prp &&& s.mprp = 0 then s.grp else s.grp ||| (1#48 <<< 36) } := by
  unfold State.summarise
  split_ifs <;> rfl

/-- Settles O8: the summary, then trap entry at 0o501 where the interrupt is due. -/
theorem interruptEntry : Obligations.InterruptEntry := by
  intro s g u due
  have hbegin : s.beginCycle = u.takeInterrupt := congrArg State.takeInterrupt (State.summarise_eq _)
  rw [hbegin, State.takeInterrupt]
  refine ⟨fun hno => if_neg (mt u.interruptDue_iff.1 hno), fun hdue => ?_⟩
  rw [if_pos (u.interruptDue_iff.2 hdue)]
  obtain ⟨hwindow, hhalf, -, -⟩ := hdue
  have hframe := u.trapEntry_frame 0o501
  refine ⟨rfl, congrArg State.grp hframe, (congrArg State.inDispatch hframe).trans hwindow, rfl, ?_, u.trapEntry_iret _⟩
  rw [State.trapEntry_spsw, State.trapStatus_half]
  exact hhalf

/-! ### The cause bits (R311) -/

/-- A written bit, in the form of the table. -/
theorem getLsbD_setBit_getD {w : Nat} (x : BitVec w) (i : Nat) (b : Bool) {j : Nat} (hj : j < w) :
    (setBit x i b).getLsbD j = (if j = i then some b else none).getD (x.getLsbD j) := by
  rw [getLsbD_setBit _ _ _ _ hj]
  split_ifs <;> rfl

/-- Settles O10: most faults write one bit; for the others the written bits and fields are compared with the table bit by
bit. -/
theorem trapCauseBits : Obligations.TrapCauseBits := by
  intro c g i hi
  have hbit := fun (x : BitVec 48) j b => getLsbD_setBit x j b i hi
  have hfield3 := fun (x : BitVec 48) (v : BitVec 3) => getLsbD_setField x 0 v (by decide) i hi
  cases c with
  | illegalInsn | insnCheck | insnProt | insnBreakpoint | loadWatch | storeWatch => exact getLsbD_setBit_getD _ _ _ hi
  | hostWatchR | hostWatchW => rfl
  | operandProt page =>
    rw [noteCause, getLsbD_setField _ _ _ (by decide) _ hi, hbit, causeBit]
    grind
  | ramCheck block | cacheCheck slot =>
    rw [noteCause, hfield3, hbit, hbit, causeBit, Nat.sub_zero]
    grind
  | overflow =>
    rw [noteCause, hbit, hbit, hbit, causeBit]
    grind
  | divZero =>
    rw [noteCause, hbit, hbit, hbit, hbit, causeBit]
    grind

/-! ### The fault handler (R310, R315, R316, R318, R320) -/

theorem State.takeCause_hostWatchR (s : State) : s.takeCause .hostWatchR = s.rollBack.stopWith .hostWatchR := rfl

theorem State.takeCause_hostWatchW (s : State) : s.takeCause .hostWatchW = s.rollBack.stopWith .hostWatchW := rfl

/-- A fault that halts stops the run and changes nothing else (R315). -/
theorem State.takeCause_of_halts {s : State} {c : Cause} {code : StopCode} (hR : c ≠ .hostWatchR) (hW : c ≠ .hostWatchW)
    (hcode : s.haltCode c = some code) : s.takeCause c = s.stopWith code := by
  unfold State.takeCause
  split
  · contradiction
  · contradiction
  · rw [hcode]

/-- A fault that does not halt traps: the two host kinds always halt. -/
theorem State.takeCause_of_traps {s : State} {c : Cause} (hcode : s.haltCode c = none) : s.takeCause c = s.trap c := by
  unfold State.takeCause
  split
  · cases hcode
  · cases hcode
  · rw [hcode]

/-- Settles O11: a fault stops or traps as its halt code says, and the codes are the table of R315 and R316. -/
theorem faultHandler : Obligations.FaultHandler := by
  refine ⟨fun s c hR hW => ?_, fun s => ?_⟩
  · cases hcode : s.haltCode c with
    | some code => exact State.takeCause_of_halts hR hW hcode
    | none => exact State.takeCause_of_traps hcode
  · exact ⟨rfl, rfl, rfl, rfl, rfl, rfl, fun _ => rfl, fun _ => rfl, fun _ => rfl, rfl, rfl⟩

/-! ### The host watch (R318) -/

theorem State.rollBack_eq (s : State) :
    s.rollBack = { s with pc := if s.right then s.pc else s.pc - 1, ruu := setBit s.ruu 8 (!s.right) } := by
  unfold State.rollBack
  cases s.right <;> rfl

/-- Rolling back undoes the advance, but for the prefetch cache (R153). -/
theorem State.rollBack_stepOver (s : State) (c : Prefetch) : (s.stepOver c).rollBack = { s with prefetch := c } := by
  have hruu : setBit (setBit s.ruu 8 (!s.right)) 8 s.right = s.ruu := by
    rw [setBit_setBit]
    exact setBit_getLsbD _ _
  have hpc : (if !s.right then (s.stepOver c).pc else (s.stepOver c).pc - 1) = s.pc := by
    unfold State.stepOver
    cases s.right with
    | true => exact BitVec.add_sub_cancel _ _
    | false => rfl
  rw [State.rollBack_eq, State.right_stepOver, State.stepOver_ruu, Bool.not_not, hruu, hpc]
  rfl

/-- Settles O12: the handler is a rollback and a stop. -/
theorem hostWatchRollsBack : Obligations.HostWatchRollsBack := by
  refine ⟨fun s => ?_, fun s c => ?_⟩
  · rw [State.takeCause_hostWatchR, State.takeCause_hostWatchW, State.rollBack_eq]
    exact ⟨rfl, rfl⟩
  · rw [State.faultEnd, State.faultEnd, State.takeCause_hostWatchR, State.takeCause_hostWatchW, State.rollBack_stepOver]
    exact ⟨rfl, rfl⟩

/-! ### The part of the state that belongs to the supervisor (R16, R108, R335) -/

/-- `t` holds the supervisor's part of the state as `s` does: the registers above `M[0o20]`, the interrupt registers and
masks, the page table and the protection, the control bits of RUU and the mode, the output and the host's side. -/
structure State.SameControl (t s : State) : Prop where
  registers : ∀ r, 0o21 ≤ r → t.getM r = s.getM r
  ibp : t.ibp = s.ibp
  dwp : t.dwp = s.dwp
  grp : t.grp = s.grp
  mgrp : t.mgrp = s.mgrp
  prp : t.prp = s.prp
  mprp : t.mprp = s.mprp
  pages : t.pages = s.pages
  ruu : t.ruu &&& 0o57 = s.ruu &&& 0o57
  ioOut : t.ioOut = s.ioOut
  host : t.host = s.host
  cfg : t.cfg = s.cfg

/-- Updates outside the supervisor's part, all at once. -/
theorem State.sameControl_of_ruu {s : State} {acc rmr : Word} {rau : BitVec 6} {ruu : BitVec 9} {pc : Addr} {cache : Cache}
    {prefetch : Prefetch} {mem : List Cell} {inDispatch : Bool} {stopped : Option StopCode} {draws : Nat}
    (hruu : ruu &&& 0o57 = s.ruu &&& 0o57) :
    State.SameControl { s with
      acc := acc, rmr := rmr, rau := rau, ruu := ruu, pc := pc, cache := cache, prefetch := prefetch, mem := mem
      inDispatch := inDispatch, stopped := stopped, draws := draws } s :=
  ⟨fun _ _ => rfl, rfl, rfl, rfl, rfl, rfl, rfl, rfl, hruu, rfl, rfl, rfl⟩

theorem State.SameControl.trans {s t u : State} (htu : u.SameControl t) (hst : t.SameControl s) : u.SameControl s where
  registers r hr := (htu.registers r hr).trans (hst.registers r hr)
  ibp := htu.ibp.trans hst.ibp
  dwp := htu.dwp.trans hst.dwp
  grp := htu.grp.trans hst.grp
  mgrp := htu.mgrp.trans hst.mgrp
  prp := htu.prp.trans hst.prp
  mprp := htu.mprp.trans hst.mprp
  pages := htu.pages.trans hst.pages
  ruu := htu.ruu.trans hst.ruu
  ioOut := htu.ioOut.trans hst.ioOut
  host := htu.host.trans hst.host
  cfg := htu.cfg.trans hst.cfg

theorem State.SameControl.sup_eq {s t : State} (h : t.SameControl s) : t.sup = s.sup := by
  have h2 := congrArg (·.getLsbD 2) h.ruu
  have h3 := congrArg (·.getLsbD 3) h.ruu
  simp only [BitVec.getLsbD_and] at h2 h3
  unfold State.sup
  rw [show t.ruu.getLsbD 2 = s.ruu.getLsbD 2 by simpa using h2, show t.ruu.getLsbD 3 = s.ruu.getLsbD 3 by simpa using h3]

theorem State.not_both_modes {s : State} (hsup : s.sup = true) (huser : s.sup = false) : False :=
  Bool.noConfusion (hsup.symm.trans huser)

/-- A bit outside the mask does not show through it. -/
theorem setBit_and_of_clear {w : Nat} (x : BitVec w) {mask : BitVec w} {i : Nat} (b : Bool) (hi : mask.getLsbD i = false) :
    setBit x i b &&& mask = x &&& mask := by
  ext j hj
  rw [← BitVec.getLsbD_eq_getElem, ← BitVec.getLsbD_eq_getElem, BitVec.getLsbD_and, BitVec.getLsbD_and]
  by_cases hji : j = i
  · rw [hji, hi, Bool.and_false, Bool.and_false]
  · rw [setBit_other _ _ _ _ hji]

section sameControl
variable (s : State)

theorem State.sameControl_setRight (b : Bool) : (s.setRight b).SameControl s :=
  State.sameControl_of_ruu (setBit_and_of_clear _ b rfl)

theorem State.sameControl_setModPending (b : Bool) : (s.setModPending b).SameControl s :=
  State.sameControl_of_ruu (setBit_and_of_clear _ b rfl)

theorem State.sameControl_jump (target : Addr) : (s.jump target).SameControl s :=
  (State.sameControl_setRight { s with pc := target } false).trans (State.sameControl_of_ruu rfl)

theorem State.sameControl_stepOver (c : Prefetch) : (s.stepOver c).SameControl s :=
  State.sameControl_of_ruu (setBit_and_of_clear _ _ rfl)

theorem State.sameControl_stopWith (c : StopCode) : (s.stopWith c).SameControl s := State.sameControl_of_ruu rfl

theorem State.sameControl_putM {r : Nat} (v : Addr) (hr : r ≤ 0o20) : (s.putM r v).SameControl s where
  registers q hq := s.getM_putM_other r q v (by omega)
  ibp := s.putM_ibp_other v (by omega)
  dwp := s.putM_dwp_other v (by omega)
  grp := by simp
  mgrp := by simp
  prp := by simp
  mprp := by simp
  pages := by simp
  ruu := by simp
  ioOut := by simp
  host := by simp
  cfg := by simp

theorem State.SameButData.sameControl {s t : State} (h : t.SameButData s) : t.SameControl s := by
  obtain ⟨m, c, d, rfl⟩ := h
  exact State.sameControl_of_ruu rfl

theorem State.sameControl_modRead (f : BitVec 8) : (s.modRead f).SameControl s := by
  unfold State.modRead
  split_ifs <;> exact State.sameControl_of_ruu rfl

theorem State.sameControl_portRead (port : Addr) : (s.portRead port).SameControl s := by
  unfold State.portRead
  split_ifs <;> exact State.sameControl_of_ruu rfl

theorem State.sameControl_rollBack : s.rollBack.SameControl s := by
  refine (State.sameControl_setRight _ _).trans ?_
  split_ifs <;> exact State.sameControl_of_ruu rfl

theorem State.sameControl_armModifier (m : Addr) : (s.armModifier m).SameControl s := by
  unfold State.armModifier
  split_ifs
  · exact s.sameControl_setModPending _
  · exact (State.sameControl_setModPending _ _).trans (s.sameControl_putM m (by decide))

/-- The end of a cycle that completed changes at most the modifier, the dispatch window and the stop code (R150, R159). -/
theorem State.sameControl_endCycle (wrapped : Bool) (f : Flow) : (s.endCycle wrapped f).SameControl s := by
  unfold State.endCycle State.completeCycle
  split_ifs
  · exact s.sameControl_stopWith _
  · refine State.SameControl.trans ?_ (s.sameControl_armModifier f.nextMod)
    generalize f.stopCode wrapped = code
    cases code <;> exact State.sameControl_of_ruu (s := s.armModifier f.nextMod) rfl

end sameControl

/-! ### The entries to supervisor mode (R262, R305) -/

theorem State.sup_jump (s : State) (target : Addr) : (s.jump target).sup = s.sup := (s.sameControl_jump target).sup_eq

theorem State.sup_trapEntry (s : State) (vector : Addr) : (s.trapEntry vector).sup = true :=
  (State.sup_jump _ vector).trans (State.sup_setMode _ _)

theorem State.sup_enterExtracode (s : State) (entry aex link : Addr) : (s.enterExtracode entry aex link).sup = true :=
  (State.sup_jump _ entry).trans (State.sup_setMode _ _)

theorem State.sup_trap (s : State) (c : Cause) : (s.trap c).sup = true := by
  unfold State.trap
  split_ifs <;> exact s.sup_trapEntry faultVector

/-- Everything the fault handler can do (R310): stop, roll back and stop, or trap. -/
theorem State.takeCause_cases (s : State) (c : Cause) :
    (∃ code, s.takeCause c = s.stopWith code) ∨ (∃ code, s.takeCause c = s.rollBack.stopWith code) ∨
      s.takeCause c = s.trap c := by
  cases hcode : s.haltCode c with
  | none => exact .inr (.inr (State.takeCause_of_traps hcode))
  | some code =>
    by_cases hR : c = .hostWatchR
    · exact .inr (.inl ⟨_, hR ▸ s.takeCause_hostWatchR⟩)
    · by_cases hW : c = .hostWatchW
      · exact .inr (.inl ⟨_, hW ▸ s.takeCause_hostWatchW⟩)
      · exact .inl ⟨code, State.takeCause_of_halts hR hW hcode⟩

/-! ### What an instruction may leave -/

/-- In user mode a register number taken from an address has 4 bits (R16, R238). -/
theorem State.sel_le_of_user {s : State} (huser : s.sup = false) (n : Addr) : s.sel n ≤ 0o20 := by
  rw [State.sel_eq, huser, if_neg Bool.false_ne_true]
  omega

/-- What a part of a cycle that began at `s` may leave: supervisor mode, or else user mode as at `s`, with the supervisor's
part of the state as it was. -/
structure Confined (s t : State) : Prop where
  inv : t.Inv
  mode : t.sup = true ∨ (s.sup = false ∧ t.SameControl s)

/-- A part of a cycle completes or raises in a state that is confined. -/
def Res.Confined {α : Type} (s : State) : Res α → Prop
  | .ok _ t => Machine.Confined s t
  | .raise _ t => Machine.Confined s t
  | .stuck _ => True

/-- The next state of an answer, if it is one, is confined. -/
def AnswersConfined (s : State) (r : Answer) : Prop := ∀ t, r = .next t → Confined s t

theorem State.Inv.confined_refl {s : State} (h : s.Inv) : Confined s s := by
  refine ⟨h, ?_⟩
  cases hs : s.sup with
  | true => exact .inl rfl
  | false => exact .inr ⟨rfl, State.sameControl_of_ruu rfl⟩

theorem Res.Confined.andThen {α β : Type} {s : State} {r : Res α} {k : α → State → Res β} (hr : r.Confined s)
    (hk : ∀ a t, Machine.Confined s t → (k a t).Confined s) : (r.andThen k).Confined s := by
  cases r with
  | ok a t => exact hk a t hr
  | raise c t => exact hr
  | stuck x => trivial

namespace Confined
variable {s t u : State} (h : Confined s t)
include h

theorem of_user (ht : t.sup = false) : s.sup = false ∧ t.SameControl s := by
  obtain hmode | hmode := h.mode
  · exact (State.not_both_modes hmode ht).elim
  · exact hmode

/-- An operation that keeps supervisor mode, and in user mode keeps the supervisor's part. -/
theorem update (hinv : u.Inv) (hsup : t.sup = true → u.sup = true) (huser : t.sup = false → u.SameControl t) :
    Confined s u := by
  refine ⟨hinv, ?_⟩
  cases ht : t.sup with
  | true => exact .inl (hsup ht)
  | false =>
    obtain ⟨hs, hst⟩ := h.of_user ht
    exact .inr ⟨hs, (huser ht).trans hst⟩

theorem of_sameControl (hinv : u.Inv) (hsame : u.SameControl t) : Confined s u :=
  h.update hinv (fun ht => hsame.sup_eq.trans ht) fun _ => hsame

/-! ### The updates of the state -/

theorem setAlu (acc rmr : Word) (rau : BitVec 6) : Confined s { t with acc := acc, rmr := rmr, rau := rau } :=
  h.of_sameControl (h.inv.setAlu _ _ _) (State.sameControl_of_ruu rfl)

theorem setDraws (n : Nat) : Confined s { t with draws := n } :=
  h.of_sameControl (h.inv.setDraws n) (State.sameControl_of_ruu rfl)

theorem jump (target : Addr) : Confined s (t.jump target) :=
  h.of_sameControl (h.inv.jump _) (t.sameControl_jump _)

/-- A write to M: in user mode of a register that user mode may name (R16). -/
theorem putM {r : Nat} (v : Addr) (hr : t.sup = false → r ≤ 0o20) : Confined s (t.putM r v) :=
  h.update (h.inv.putM _ _) (fun ht => (t.sup_putM r v).trans ht) fun ht => t.sameControl_putM v (hr ht)

/-- A write to the register that the register field names. -/
theorem putReg (reg : BitVec 4) (v : Addr) : Confined s (t.putM reg.toNat v) :=
  h.putM v fun _ => by omega

/-- A write to the register that an address names. -/
theorem putSel (n v : Addr) : Confined s (t.putM (t.sel n) v) :=
  h.putM v fun ht => State.sel_le_of_user ht n

theorem setSp (v : Addr) : Confined s (t.setSp v) := h.putM v fun _ => by decide

theorem pushed (reg : BitVec 4) (a : Addr) : Confined s (t.pushed reg a) := by
  unfold State.pushed
  split_ifs
  · exact h.setSp _
  · exact h

/-- The bits of PSW are loaded in supervisor mode alone (R242, R243). -/
theorem loadPswBits (reg : BitVec 4) (a : Addr) : Confined s (t.loadPswBits reg a) := by
  unfold State.loadPswBits
  split_ifs with hload
  · obtain ⟨hsup, -⟩ : t.sup = true ∧ _ := by simpa using hload
    exact h.putM _ fun huser => (State.not_both_modes hsup huser).elim
  · exact h

theorem enterExtracode (entry aex link : Addr) : Confined s (t.enterExtracode entry aex link) :=
  ⟨h.inv.enterExtracode _ _ _, .inl (t.sup_enterExtracode _ _ _)⟩

theorem takeCause (c : Cause) : Confined s (t.takeCause c) := by
  have hinv := h.inv.takeCause c
  obtain ⟨code, hc⟩ | ⟨code, hc⟩ | hc := t.takeCause_cases c <;> rw [hc] at hinv ⊢
  · exact h.of_sameControl hinv (t.sameControl_stopWith code)
  · exact h.of_sameControl hinv ((State.sameControl_stopWith _ code).trans t.sameControl_rollBack)
  · exact ⟨hinv, .inl (t.sup_trap c)⟩

theorem endCycle (wrapped : Bool) (f : Flow) : Confined s (t.endCycle wrapped f) :=
  h.of_sameControl (h.inv.endCycle _ _) (t.sameControl_endCycle _ _)

/-! ### The shared operations of the instructions -/

theorem memRead (a : Addr) : (memRead a t).Confined s := by
  have hinv := memRead_keepsInv h.inv a
  cases hr : Machine.memRead a t with
  | ok x u =>
    rw [hr] at hinv
    exact h.of_sameControl hinv (State.sameButData_of_promotion (memRead_ok h.inv hr)).sameControl
  | raise c u =>
    rw [hr] at hinv
    exact h.of_sameControl hinv (State.sameButData_of_promotion (memRead_raise h.inv hr)).sameControl
  | stuck x => trivial

theorem memWrite (a : Addr) (v : Word) : (memWrite a v t).Confined s := by
  cases hw : Machine.memWrite a v t with
  | ok x u => exact h.of_sameControl (memWrite_inv h.inv hw) (memWrite_ok_frame h.inv hw).sameControl
  | raise c u => rw [memWrite_raise h.inv hw]; exact h
  | stuck x => trivial

end Confined

theorem Res.Confined.undoing {α : Type} {s : State} {r : Res α} {d : Addr} (hr : r.Confined s) :
    (r.undoing d).Confined s := by
  cases r with
  | ok a t => exact hr
  | raise c t => exact Machine.Confined.setSp hr _
  | stuck x => trivial

namespace Confined
variable {s t : State} (h : Confined s t)
include h

theorem pushAcc : (pushAcc t).Confined s := (h.memWrite _ _).andThen fun _ _ hu => hu.setSp _

theorem withOperand {α : Type} {rest : Word → State → Res α} {reg : BitVec 4} {a : Addr}
    (hrest : ∀ x u, Confined s u → (rest x u).Confined s) : (withOperand reg a t rest).Confined s := by
  unfold Machine.withOperand
  split_ifs
  · exact .undoing (((h.setSp _).memRead _).andThen hrest)
  · exact (h.memRead _).andThen hrest

theorem withPop {α : Type} {rest : Word → State → Res α} (hrest : ∀ x u, Confined s u → (rest x u).Confined s) :
    (withPop t rest).Confined s :=
  .undoing (((h.setSp _).memRead _).andThen hrest)

theorem withReadM {α : Type} {rest : Addr → State → Res α} {r : Nat}
    (hrest : ∀ v u, Confined s u → (rest v u).Confined s) : (withReadM r t rest).Confined s := by
  unfold Machine.withReadM
  split_ifs
  · exact hrest _ _ (h.setDraws _)
  · exact hrest _ _ h

theorem writeAlu {α : Type} {rest : State → Res α} {r : Alu.Out} (hrest : ∀ u, Confined s u → (rest u).Confined s) :
    (writeAlu r t rest).Confined s := by
  unfold Machine.writeAlu
  dsimp only
  split_ifs
  · exact h.setAlu _ _ _
  · exact hrest _ (h.setAlu _ _ _)

theorem arithEnd {setter : State → State} {r : Alu.Out} (hset : ∀ u, Confined s u → Confined s (setter u)) :
    (arithEnd r setter t).Confined s :=
  h.writeAlu hset

theorem branch (taken : Bool) (target : Addr) : (branch taken target t).Confined s := by
  unfold Machine.branch
  split_ifs
  · exact h.jump _
  · exact h

/-- Behind the test of the mode only supervisor mode is left to look at (R108 (a)). -/
theorem supervisorOnly {r : Res Flow} (hr : t.sup = true → r.Confined s) : (supervisorOnly t r).Confined s := by
  unfold Machine.supervisorOnly
  split_ifs with hsup
  · exact hr hsup
  · exact h

theorem setAdditive : Confined s t.setAdditive := h.setAlu _ _ _

theorem setMultiplicative : Confined s t.setMultiplicative := h.setAlu _ _ _

end Confined

/-! ### The instructions behind the test of the mode (R108 (a)) -/

/-- The control bits of RUU are other bits than the mode (R281). -/
theorem State.sup_setControl (s : State) (f : BitVec 8) : (s.setControl f).sup = s.sup := by
  unfold State.sup State.setControl
  simp (disch := decide) only [setBit_other]

theorem State.sup_modWrite (s : State) (f : BitVec 8) : (s.modWrite f).sup = s.sup := by
  unfold State.modWrite
  dsimp only
  split_ifs
  case neg => exact s.sup_setControl f
  all_goals rfl

theorem State.sup_portWrite (s : State) (port : Addr) : (s.portWrite port).sup = s.sup := by
  unfold State.portWrite
  split_ifs <;> rfl

theorem modFunction_confined {s t : State} (h : Confined s t) (hsup : t.sup = true) (f : BitVec 8) :
    (modFunction f t).Confined s := by
  have hread := h.of_sameControl (h.inv.modRead f) (State.sameControl_modRead t f)
  unfold modFunction
  split_ifs
  · exact hread.setAlu _ _ _
  · exact h
  · exact ⟨h.inv.modWrite f, .inl ((t.sup_modWrite f).trans hsup)⟩

theorem extTransfer_confined {s t : State} (h : Confined s t) (hsup : t.sup = true) (aex : Addr) :
    (extTransfer aex t).Confined s := by
  have hread := h.of_sameControl (h.inv.portRead (aex &&& 0o4177)) (State.sameControl_portRead t _)
  unfold extTransfer
  split_ifs
  · exact hread.setAlu _ _ _
  · exact ⟨h.inv.portWrite _, .inl ((t.sup_portWrite _).trans hsup)⟩

/-- How `sti` ends, where its register is one that the mode at the start of the instruction may name. -/
theorem stiEnd_confined {s u : State} (hu : Confined s u) (n v : Addr) (x : Word) :
    (stiEnd (s.sel n) v x u).Confined s :=
  ((hu.setAlu x u.rmr u.rau).putM v fun huser => State.sel_le_of_user (hu.of_user huser).1 n).setAlu _ _ _

/-! ### One half-instruction -/

section half
variable {s : State} (h : s.Inv)
include h

/-- The advance and the end of the cycle are confined, so only the instruction's own part is left to look at. -/
theorem runHalf_confined {body : Addr → State → Res Flow} {addr : Addr}
    (hbody : ∀ a t, Confined s t → (body a t).Confined s) : AnswersConfined s (runHalf addr s body) := by
  intro t ht
  rw [runHalf_eq h] at ht
  have hb := hbody (s.modified addr) _ (h.confined_refl.of_sameControl h.stepOver_lookahead (s.sameControl_stepOver _))
  cases hr : body (s.modified addr) (s.stepOver s.lookahead) with
  | ok f u =>
    rw [hr] at ht hb
    cases ht
    exact hb.endCycle _ f
  | raise c u =>
    rw [hr] at ht hb
    cases ht
    exact hb.takeCause c
  | stuck x =>
    rw [hr] at ht
    cases x <;> cases ht

theorem runOperand_confined {rest : Word → State → Res Flow} {reg : BitVec 4} {addr : Addr}
    (hrest : ∀ x t, Confined s t → (rest x t).Confined s) : AnswersConfined s (runOperand reg addr s rest) :=
  runHalf_confined h fun _ _ ht => ht.withOperand hrest

/-- An operand, an arithmetic operation, and a class setter. -/
theorem runArith_confined {result : Word → State → Alu.Out} {setter : State → State} {reg : BitVec 4} {addr : Addr}
    (hset : ∀ t, Confined s t → Confined s (setter t)) :
    AnswersConfined s (runOperand reg addr s fun x t => arithEnd (result x t) setter t) :=
  runOperand_confined h fun _ _ ht => ht.arithEnd hset

theorem extracode_confined {nn : Nat} {reg : BitVec 4} {addr : Addr} : AnswersConfined s (extracode nn reg addr s) :=
  runHalf_confined h fun _ _ ht => ht.enterExtracode _ _ _

/-- In user mode `ij` raises `IllegalInsn` (R108 (a)). -/
theorem exec_ij_confined_of_user (huser : s.sup = false) (reg : BitVec 4) (addr : Addr) :
    AnswersConfined s (exec (.ij reg addr) s) := by
  intro t ht
  rw [exec_ij, runHalf_supervisorOnly_user h addr _ huser] at ht
  cases ht
  exact (h.confined_refl.of_sameControl h.stepOver_lookahead (s.sameControl_stepOver _)).takeCause _

theorem exec_sti_confined (reg : BitVec 4) (addr : Addr) : AnswersConfined s (exec (.sti reg addr) s) := by
  have hend := fun x u (hu : Confined s u) =>
    stiEnd_confined hu (s.execAddr reg (s.modified addr)) (s.acc.setWidth 15) x
  by_cases hr : s.sel (s.execAddr reg (s.modified addr)) = 0o17
  · rw [exec_sti_load h hr]
    rw [hr] at hend
    exact runHalf_confined h fun _ _ ht => (ht.memRead _).andThen hend
  · rw [exec_sti_pop h hr]
    exact runHalf_confined h fun _ _ ht => ht.withPop hend

end half

/-- Every instruction is confined, but for `ij` in supervisor mode. -/
theorem exec_confined (i : Instr) {s : State} (h : s.Inv) (hij : ∀ reg addr, i = .ij reg addr → s.sup = false) :
    AnswersConfined s (exec i s) := by
  unfold exec
  cases i with
  -- stores and the stack
  | atx reg addr =>
    exact runHalf_confined h fun _ _ ht => (ht.memWrite _ _).andThen fun _ _ hu => hu.pushed _ _
  | stx reg addr =>
    exact runHalf_confined h fun _ _ ht => (ht.memWrite _ _).andThen fun _ _ hu =>
      hu.withPop fun _ _ hv => hv.setAlu _ _ _
  | xts reg addr =>
    exact runHalf_confined h fun _ _ ht => ht.pushAcc.andThen fun _ _ hu =>
      .undoing ((hu.memRead _).andThen fun _ _ hv => hv.setAlu _ _ _)
  -- an operand in memory, then ACC, RMR and RAU alone
  | xta reg addr | aax reg addr | aex reg addr | arx reg addr | aox reg addr | apx reg addr | aux reg addr
  | acx reg addr | asx reg addr | xtr reg addr =>
    exact runOperand_confined h fun _ _ ht => ht.setAlu _ _ _
  | anx reg addr =>
    refine runOperand_confined h fun x t ht => ?_
    split_ifs
    · exact ht.setAlu _ _ _
    · exact ht.setAlu _ _ _
  -- an operand in memory, then an arithmetic operation
  | aPlusX reg addr | aMinusX reg addr | xMinusA reg addr | amx reg addr | avx reg addr =>
    exact runArith_confined h fun _ ht => ht.setAdditive
  | aMulX reg addr | ePlusX reg addr | eMinusX reg addr =>
    exact runArith_confined h fun _ ht => ht.setMultiplicative
  | aDivX reg addr =>
    refine runOperand_confined h fun x t ht => ?_
    split_ifs
    · exact ht
    · exact ht.arithEnd fun _ hu => hu.setMultiplicative
  -- ACC, RMR and RAU from the registers and the address
  | rte reg addr | asn reg addr | ntr reg addr => exact runHalf_confined h fun _ _ ht => ht.setAlu _ _ _
  | ePlusN reg addr | eMinusN reg addr =>
    exact runHalf_confined h fun _ _ ht => ht.arithEnd fun _ hu => hu.setMultiplicative
  | yta reg addr =>
    refine runHalf_confined h fun a t ht => ?_
    split_ifs
    · exact ht.setAlu _ _ _
    · exact ht.writeAlu fun _ hu => hu.setAlu _ _ _
  -- the supervisor's instructions
  | mod reg addr =>
    exact runHalf_confined h fun _ _ ht => ht.supervisorOnly fun hsup => modFunction_confined ht hsup _
  | ext reg addr =>
    exact runHalf_confined h fun _ _ ht => ht.supervisorOnly fun hsup => extTransfer_confined ht hsup _
  | op46 reg addr | op47 reg addr =>
    exact runHalf_confined h fun _ _ ht => ht.supervisorOnly fun _ => ht.putM _ fun _ => by omega
  | op32 reg addr => exact runHalf_confined h fun _ _ ht => ht
  | ij reg addr => exact exec_ij_confined_of_user h (hij reg addr rfl) reg addr
  | stop reg addr =>
    refine runHalf_confined h fun a t ht => ?_
    split_ifs
    · exact ht
    · exact ht
    · exact ht.enterExtracode _ _ _
  -- the registers M
  | ati reg addr | mtj reg addr => exact runHalf_confined h fun _ _ ht => ht.putSel _ _
  | sti reg addr => exact exec_sti_confined h reg addr
  | ita reg addr =>
    exact runHalf_confined h fun _ _ ht => ht.withReadM fun _ _ hu => hu.setAlu _ _ _
  | its reg addr =>
    exact runHalf_confined h fun _ _ ht => ht.pushAcc.andThen fun _ _ hu =>
      hu.withReadM fun _ _ hv => hv.setAlu _ _ _
  | jPlusM reg addr =>
    refine runHalf_confined h fun a t ht => ?_
    split_ifs
    · exact ht.putSel _ _
    · exact ht.putM _ fun _ => by omega
  | utc reg addr => exact runHalf_confined h fun _ _ ht => ht
  | wtc reg addr => exact runHalf_confined h fun _ _ ht => ht.withOperand fun _ _ hu => hu
  | vtm reg addr | utm reg addr => exact runHalf_confined h fun _ _ ht => (ht.putReg _ _).loadPswBits _ _
  -- transfers of control
  | uza reg addr | u1a reg addr => exact runHalf_confined h fun _ _ ht => (ht.setAlu _ _ _).branch _ _
  | uj reg addr => exact runHalf_confined h fun _ _ ht => ht.jump _
  | vjm reg addr => exact runHalf_confined h fun _ _ ht => (ht.putReg _ _).jump _
  | vzm reg addr | v1m reg addr | op36 reg addr => exact runHalf_confined h fun _ _ ht => ht.branch _ _
  | vlm reg addr =>
    refine runHalf_confined h fun a t ht => ?_
    split_ifs
    · exact ht
    · exact (ht.putReg _ _).jump _
  -- extracodes
  | ex50 reg addr | ex51 reg addr | ex52 reg addr | ex53 reg addr | ex54 reg addr | ex55 reg addr | ex56 reg addr
  | ex57 reg addr | ex60 reg addr | ex61 reg addr | ex62 reg addr | ex63 reg addr | ex64 reg addr | ex65 reg addr
  | ex66 reg addr | ex67 reg addr | ex70 reg addr | ex71 reg addr | ex72 reg addr | ex73 reg addr | ex74 reg addr
  | ex75 reg addr | ex76 reg addr | ex77 reg addr | ex20 reg addr | ex21 reg addr =>
    exact extracode_confined h

/-! ### The two directions of R335 -/

/-- `ij` in supervisor mode leaves the mode that SPSW saves (R278). -/
theorem exec_ij_sup {s t : State} (h : s.Inv) (hsup : s.sup = true) {reg : BitVec 4} {addr : Addr}
    (ht : exec (.ij reg addr) s = .next t) : t.sup = (s.spsw.getLsbD 2 || s.spsw.getLsbD 3) := by
  rw [exec_ij_eq h hsup] at ht
  cases ht
  exact (State.sup_setModPending _ _).trans (State.returnFrom_sup _ reg)

/-- An instruction that leaves supervisor mode is `ij`, for no other can (`exec_confined`). -/
theorem exec_leaves_supervisor {i : Instr} {s t : State} (h : s.Inv) (ht : exec i s = .next t) (hsup : s.sup = true)
    (huser : t.sup = false) :
    (∃ reg addr, i = .ij reg addr) ∧ s.spsw.getLsbD 2 = false ∧ s.spsw.getLsbD 3 = false := by
  have hij : ∃ reg addr, i = .ij reg addr := by
    by_contra hno
    push Not at hno
    have hconf := exec_confined i h (fun reg addr hi => absurd hi (hno reg addr)) t ht
    exact State.not_both_modes hsup (hconf.of_user huser).1
  obtain ⟨reg, addr, rfl⟩ := hij
  rw [exec_ij_sup h hsup ht] at huser
  exact ⟨⟨reg, addr, rfl⟩, Bool.or_eq_false_iff.1 huser⟩

/-- The top of the cycle does not leave supervisor mode: it enters it or changes no mode (R306). -/
theorem State.sup_beginCycle {s : State} (hsup : s.sup = true) : s.beginCycle.sup = true := by
  have hsummary : (State.summarise { s with resuming := false }).sup = true := by
    rw [State.summarise_eq]
    exact hsup
  unfold State.beginCycle State.takeInterrupt
  split_ifs
  · exact State.sup_trapEntry _ _
  · exact hsummary

/-- A fetch changes at most the prefetch cache, so it is confined. -/
theorem fetchHalf_confined {s t : State} (h : Confined s t) : (fetchHalf t).Confined s := by
  have hpre := h.of_sameControl (h.inv.prefetched (t.fetchVariant t.pc)) (State.sameControl_of_ruu rfl)
  refine Res.Confined.andThen ?_ fun _ _ hu => hu
  rw [fetchWord_eq h.inv]
  split_ifs
  · exact h
  · exact h
  · exact h
  · exact hpre
  · exact hpre

/-- A cycle that leaves supervisor mode reached an instruction, in supervisor mode, and it is that instruction that left. -/
theorem step_leaves_supervisor {s t : State} (h : s.Inv) (ht : step s = .next t) (hsup : s.sup = true)
    (huser : t.sup = false) :
    ∃ w u, fetchHalf s.beginCycle = .ok w u ∧ u.Inv ∧ u.sup = true ∧ exec (decode w) u = .next t := by
  have hstays : ∀ {u}, Confined s.beginCycle u → u.sup = true := fun hu =>
    hu.mode.resolve_right fun hno => State.not_both_modes (State.sup_beginCycle hsup) hno.1
  unfold step at ht
  split_ifs at ht
  · cases ht
    exact (State.not_both_modes hsup huser).elim
  · cases ht
    exact (State.not_both_modes hsup huser).elim
  · have hf := fetchHalf_confined h.beginCycle.confined_refl
    cases hw : fetchHalf s.beginCycle with
    | ok w u =>
      rw [hw] at ht hf
      exact ⟨w, u, rfl, hf.inv, hstays hf, ht⟩
    | raise c u =>
      rw [hw] at ht hf
      cases ht
      exact (State.not_both_modes (hstays (hf.takeCause c)) huser).elim
    | stuck x =>
      rw [hw] at ht
      cases x <;> cases ht

/-- Settles O18: `exec_leaves_supervisor`, at the state of the instruction and at the one that the fetch of a cycle
leaves. -/
theorem supervisorLeftOnlyByReturn : Obligations.SupervisorLeftOnlyByReturn := by
  refine ⟨fun i s t h ht hsup huser => exec_leaves_supervisor h ht hsup huser, fun s t h ht hsup huser => ?_⟩
  obtain ⟨w, u, hw, hinv, husup, hexec⟩ := step_leaves_supervisor h ht hsup huser
  obtain ⟨⟨reg, addr, hij⟩, h2, h3⟩ := exec_leaves_supervisor hinv hexec husup huser
  exact ⟨w, u, reg, addr, hw, hij, h2, h3⟩

/-- Settles O19: no instruction executed in user mode is `ij` in supervisor mode, so each is confined. -/
theorem userModeIsConfined : Obligations.UserModeIsConfined := by
  intro i s t h ht hs huser
  obtain ⟨-, hsame⟩ := (exec_confined i h (fun _ _ _ => hs) t ht).of_user huser
  exact ⟨hsame.registers, hsame.ibp, hsame.dwp, hsame.grp, hsame.mgrp, hsame.prp, hsame.mprp, hsame.pages, hsame.ruu,
    hsame.ioOut, hsame.host, hsame.cfg⟩

end Sys2Proof.Machine

/-!
PROOFS of the family of reset, with the words that the instruction rules write out. Reset answers a state whose every
register is a constant, so each group of registers gets one lemma on what it reads after reset; the invariant needs of the
state before reset only what reset leaves: the parameters and memory.
-/
namespace Sys2Proof.Machine

/-! ### What each group of registers reads after reset (R350) -/

section resetFrom
variable (s : State)

/-- `s` with every register M zero. -/
def State.clearM : State := { s with m := Vector.replicate 27 0, ibp := 0, dwp := 0 }

theorem State.getM_clearM (r : Nat) : s.clearM.getM r = 0 := by
  have hstored : ((Vector.replicate 27 (0 : Addr))[r - 1]?).getD 0 = 0 := by
    rw [Vector.getElem?_replicate]
    split_ifs <;> rfl
  unfold State.getM
  split_ifs
  · rfl
  · rfl
  · rfl
  · exact hstored

/-- Reset leaves the registers M as two writes to cleared ones. -/
theorem State.resetFrom_eq_putM : s.resetFrom = (s.resetFrom.clearM.putM 0o21 0o2017).putM 0o27 0o2007 := rfl

theorem State.getM_resetFrom_psw : s.resetFrom.getM 0o21 = 0o2017 := by
  rw [s.resetFrom_eq_putM, State.getM_putM_other _ _ _ _ (by decide), State.getM_putM_same _ _ _ (by decide) (by decide)]

theorem State.getM_resetFrom_spsw : s.resetFrom.getM 0o27 = 0o2007 := by
  rw [s.resetFrom_eq_putM, State.getM_putM_same _ _ _ (by decide) (by decide)]

theorem State.getM_resetFrom_other {r : Nat} (h21 : r ≠ 0o21) (h27 : r ≠ 0o27) : s.resetFrom.getM r = 0 := by
  rw [s.resetFrom_eq_putM, State.getM_putM_other _ _ _ _ h27, State.getM_putM_other _ _ _ _ h21, State.getM_clearM]

theorem State.cacheSlot_resetFrom (k : Fin 8) :
    s.resetFrom.cache.baz[k] = 0 ∧ s.resetFrom.cache.brz[k] = ⟨0, 0⟩ :=
  ⟨Vector.getElem_replicate k.isLt, Vector.getElem_replicate k.isLt⟩

theorem State.prefetchSlot_resetFrom (k : Fin 4) :
    s.resetFrom.prefetch.bas[k] = 0 ∧ s.resetFrom.prefetch.brs[k] = ⟨0, 0⟩ :=
  ⟨Vector.getElem_replicate k.isLt, Vector.getElem_replicate k.isLt⟩

theorem State.rp_resetFrom (i : Fin 8) : s.resetFrom.pages.rp[i] = 0 := Vector.getElem_replicate i.isLt

theorem State.tlb_resetFrom (p : Fin 32) : s.resetFrom.pages.tlb[p] = 0 := Vector.getElem_replicate p.isLt

end resetFrom

/-- Settles O17: the registers that are vectors by the lemmas above, each other field by what reset writes or keeps. -/
theorem resetValues : Obligations.ResetValues := fun s =>
  ⟨rfl, rfl, rfl, rfl, rfl, s.getM_resetFrom_psw, s.getM_resetFrom_spsw, fun _ => s.getM_resetFrom_other,
    rfl, rfl, rfl, rfl, s.cacheSlot_resetFrom, rfl, rfl, s.prefetchSlot_resetFrom, rfl, s.rp_resetFrom, s.tlb_resetFrom,
    rfl, rfl, rfl, rfl, rfl, rfl, rfl, rfl⟩

/-! ### The invariant after reset (R351) -/

/-- Reset meets the invariant on admitted parameters and on canonical memory within them, whatever the registers held: it
empties both caches, gives both tables the order of slot numbers (R68, R74) and maps every page to frame 0. -/
theorem State.inv_resetFrom {s : State} (hparams : s.cfg.wf) (hwf : Memory.wf s.mem = true)
    (hrange : ∀ c ∈ s.mem, c.1 < s.cfg.memWords) : s.resetFrom.Inv where
  params := hparams
  memWf := hwf
  memRange := hrange
  cacheOrder := Recency.isOrder_zero _ _ _
  prefetchOrder := Recency.isOrder_zero _ _ _
  slotsDistinct := fun i _ _ _ => (s.cacheSlot_resetFrom i).1
  sweepCount := Nat.zero_le 8
  pagesAgree := fun i j => by
    have htlb := s.tlb_resetFrom ⟨4 * i.val + j.val, by omega⟩
    calc s.resetFrom.pages.tlb[4 * i.val + j.val] = 0 := htlb
      _ = (0 : Word).extractLsb' (12 * j.val) 12 := BitVec.extractLsb'_zero.symm
      _ = s.resetFrom.pages.rp[i].extractLsb' (12 * j.val) 12 := by rw [s.rp_resetFrom i]
  framesMasked := fun p => by rw [s.tlb_resetFrom p]; exact BitVec.zero_and
  ruuReserved := show (0o44 : BitVec 9) &&& 0o300 = 0 by decide

/-- The model's own choice of parameters is one that R6, R50 and R302 admit. -/
theorem wf_suggested : Config.Params.suggested.wf := by decide

/-- Settles O15: before the first reset memory lists nothing; a state that meets the invariant keeps its parameters and
its memory. -/
theorem resetMeetsInvariant : Obligations.ResetMeetsInvariant :=
  ⟨State.inv_resetFrom wf_suggested rfl fun _ hc => absurd hc List.not_mem_nil,
    fun _ h => State.inv_resetFrom h.params h.memWf h.memRange⟩

end Sys2Proof.Machine

namespace Sys2Proof

/-! ### The words of the instruction rules (R110) -/

/-- A word that is the encoding of a well-formed instruction decodes to it (O1). -/
theorem decode_of_encode_eq {i : Instr} {h : Half} (hwf : i.wellFormed = true) (henc : encode i = h) : decode h = i :=
  henc ▸ (encodingFollowsTheFormats.1 i hwf).1

/-- Settles O3: each word is what R110 assembles from the instruction and the operands its rule names. -/
theorem specWordsDecode : Obligations.SpecWordsDecode := by
  refine ⟨?_, ?_, ?_, ?_, ?_, ?_, ?_, ?_, ?_, ?_⟩ <;> exact decode_of_encode_eq rfl rfl

end Sys2Proof
